-- ==== Sys2Proof/Word.lean ====
section
/-!
DEFINITION. The word types of the CHIP-8 CORE (spec/00_scope.md R4, R6).
Every value of the hardware is unsigned; a width is part of its type, so the ranges of R9 hold by construction.
-/

namespace Sys2Proof

/-- One byte: a general register, a timer, a byte of `MEM` (R4 `REG_BITS`, `TIMER_BITS`). -/
abbrev Byte := BitVec 8

/-- A 12-bit address: `I`, `PC`, a stack entry, an address of `MEM` (R4 `ADDR_BITS`). Its arithmetic wraps modulo 4096. -/
abbrev Addr := BitVec 12

/-- One 16-bit opcode (R90). -/
abbrev Opcode := BitVec 16

/-- A register number, the value of an `x` or `y` field: it names `V[x]` (R20, R93). -/
abbrev Reg := BitVec 4

/-- A 4-bit field used as a number: the sprite height of `DRW` (R91 `n`). -/
abbrev Nibble := BitVec 4

/-- The number of the flag register VF = `V[15]` (R7, R21). -/
abbrev vf : Reg := 0xF#4

/-- A byte read as a 12-bit number, `zext_12` (R6). -/
def zext12 (b : Byte) : Addr := b.setWidth 12

/-- A bit read as a byte, 0 or 1: what a flag writes to VF (R21). -/
def bitByte (b : Bool) : Byte := if b then 1#8 else 0#8

end Sys2Proof
end

