-- ==== Sys2Proof/Config.lean ====
section
/-!
DEFINITION. What an implementation fixes: the parameters of spec/00_scope.md R4, the configuration record of R5,
and the free values (opaque constants with no body, so no proof can see what they are).
-/

namespace Sys2Proof

/-- The configuration of an instance, fixed for its life (R5, spec/43_keys_timers.md R186, spec/70_reset_and_hazards.md R274).
It is held in the state, so a statement about every state is a statement about every configuration. -/
structure Params where
  /-- `FONT[0..79]`, copied to address 0x000 at reset (R274). -/
  font : Vector Byte 80
  /-- `KEYMAP_TABLE[0..15]`, one host key code per CHIP-8 code (R186). -/
  keymapTable : Vector Nat 16
  /-- `KEYMAP_RAW`, the raw passthrough mode bit (R186). -/
  keymapRaw : Bool
  deriving DecidableEq, Repr

/-- `MEM_BYTES` (R4). -/
abbrev Config.memBytes : Nat := 4096

/-- `PROG_BASE` (R4): where a program is loaded and where `PC` starts. -/
abbrev Config.progBase : Nat := 0x200

/-- `PROG_MAX_BYTES` (R4). -/
abbrev Config.progMaxBytes : Nat := 3584

/-- `FONT_BYTES` (R4). -/
abbrev Config.fontBytes : Nat := 80

/-- `STACK_DEPTH` (R4, spec decision D1; notes/assumptions/18.md). -/
abbrev Config.stackDepth : Nat := 16

/-- `PB_WIDTH` (R4). -/
abbrev Config.pbWidth : Nat := 64

/-- `PB_ENTRIES` (R4). -/
abbrev Config.pbEntries : Nat := 2048

/-- Default `CLOCK_RATE` (R4, R37). -/
abbrev Config.clockRateDefault : Nat := 700

/-- The bounds and the step of `CLOCK_RATE` (R4, R240). -/
abbrev Config.clockRateMin : Nat := 200

/-- See `Config.clockRateMin`. -/
abbrev Config.clockRateMax : Nat := 1000

/-- See `Config.clockRateMin`. -/
abbrev Config.clockRateStep : Nat := 100

/-- Default `TIMER_RATE` (R4, R37). -/
abbrev Config.timerRateDefault : Nat := 60

/-- FREE VALUE. Where `TIMER_RATE_MIN` lies at or below the default rate: R4 leaves the bound open
(notes/assumptions/9.md). -/
opaque Config.timerRateLow : Fin (Config.timerRateDefault + 1)

/-- FREE VALUE. How far `TIMER_RATE_MAX` lies at or above the default rate: R4 leaves the bound open
(notes/assumptions/9.md). -/
opaque Config.timerRateHeadroom : Nat

/-- `TIMER_RATE_MIN`, an open parameter of R4: any bound that the default rate meets (notes/assumptions/9.md). -/
def Config.timerRateMin : Nat := Config.timerRateLow.val

/-- `TIMER_RATE_MAX`, an open parameter of R4: any bound that the default rate meets (notes/assumptions/9.md). -/
def Config.timerRateMax : Nat := Config.timerRateDefault + Config.timerRateHeadroom

/-- `TIMER_RATE_STEP`, an open parameter of R4 (notes/assumptions/9.md). -/
opaque Config.timerRateStep : Nat

/-- FREE VALUE. `Rand()`, the k-th random byte drawn (R151: any value 0..255; notes/assumptions/3.md). -/
opaque Config.randomByte : Nat → Byte

/-- FREE VALUE. How many timer ticks fall at the k-th step boundary (R239; notes/assumptions/2.md). -/
opaque Config.ticksAt : Nat → Nat

/-- FREE VALUE. `CLOCK_RATE` after a host reset at the k-th step boundary, as one of its nine legal values:
R40 leaves open whether it survives a later reset (notes/assumptions/8.md). -/
opaque Config.clockAfterReset : Nat → Fin 9

/-- FREE VALUE. `TIMER_RATE` after a host reset at the k-th step boundary, before it is held to its bounds (R40, R37;
notes/assumptions/8.md). -/
opaque Config.timerAfterReset : Nat → Nat

end Sys2Proof
end

