-- ==== Sys2Proof/WellFormed.lean ====
section
/-!
DEFINITION. Well-formedness.
An instruction's operands carry their widths in their types and spec/30_encoding.md R93 makes all their values legal, so an
instruction has no check to fail. What can be ill formed is a 16-bit word (R96) and a program image (spec/70_reset_and_hazards.md R273).
-/

namespace Sys2Proof

/-- Every instruction with operands of the field widths is well formed: "All 16 values of `x` and `y` are legal in every
instruction that has the field" (R93), and `kk`, `nnn`, `n` are used as they stand. One line per constructor, so that a new
one must be considered. -/
def Instr.wellFormed : Instr → Bool
  | .cls | .ret => true
  | .jp _ | .call _ | .ldI _ | .jpV0 _ => true
  | .seByte _ _ | .sneByte _ _ | .ldByte _ _ | .addByte _ _ | .rnd _ _ => true
  | .seReg _ _ | .sneReg _ _ | .ldReg _ _ | .orReg _ _ | .andReg _ _ | .xorReg _ _ => true
  | .addReg _ _ | .sub _ _ | .shr _ _ | .subn _ _ | .shl _ _ => true
  | .drw _ _ _ => true
  | .skp _ | .sknp _ => true
  | .ldVxDt _ | .ldVxK _ | .ldDtVx _ | .ldStVx _ | .addI _ | .ldF _ | .ldB _ | .ldMemVx _ | .ldVxMem _ => true

/-- The six sets of unrecognized encodings, (a) to (f) of R96. -/
inductive Unrecognized where
  /-- (a) `0NNN` with NNN neither 0x0E0 nor 0x0EE -/
  | group0
  /-- (b) `5XYN` with N not 0 -/
  | group5
  /-- (c) `8XYN` with N one of 8, 9, A, B, C, D, F -/
  | group8
  /-- (d) `9XYN` with N not 0 -/
  | group9
  /-- (e) `EXKK` with KK neither 0x9E nor 0xA1 -/
  | groupE
  /-- (f) `FXKK` with KK none of the nine selectors -/
  | groupF
  deriving DecidableEq, Repr

/-- `Unrecognized.has g w`: the word `w` lies in the set `g` of R96, each set written as R96 writes it. -/
def Unrecognized.has (g : Unrecognized) (w : Opcode) : Bool :=
  let op := w.extractLsb' 12 4
  let nnn := w.extractLsb' 0 12
  let kk := w.extractLsb' 0 8
  let n := w.extractLsb' 0 4
  match g with
  | .group0 => op == 0x0#4 && !(nnn ∈ [0x0E0#12, 0x0EE#12])
  | .group5 => op == 0x5#4 && n != 0#4
  | .group8 => op == 0x8#4 && n ∈ [0x8#4, 0x9#4, 0xA#4, 0xB#4, 0xC#4, 0xD#4, 0xF#4]
  | .group9 => op == 0x9#4 && n != 0#4
  | .groupE => op == 0xE#4 && !(kk ∈ [0x9E#8, 0xA1#8])
  | .groupF => op == 0xF#4 && !(kk ∈ [0x07#8, 0x0A#8, 0x15#8, 0x18#8, 0x1E#8, 0x29#8, 0x33#8, 0x55#8, 0x65#8])

/-- A word is well formed when it lies in none of the six sets of R96. -/
def opcodeWellFormed (w : Opcode) : Bool :=
  [Unrecognized.group0, .group5, .group8, .group9, .groupE, .groupF].all fun g => !g.has w

/-- The size check on a program image: 1 to 3584 bytes (R273). -/
def imageWellFormed (image : List Byte) : Bool :=
  1 ≤ image.length && image.length ≤ Config.progMaxBytes

end Sys2Proof
end

