-- ==== Sys2Proof/Decode.lean ====
section
/-!
DEFINITION. The decoder (spec/30_encoding.md R91, R94, R96) and, after it, the encoder (R92, R95).
Decoding is total: a word outside the 34 rows is rejected by the name of its set in R96.
-/

namespace Sys2Proof

/-- The `op` field, the group selector (R91). -/
def fieldOp (w : Opcode) : BitVec 4 := w.extractLsb' 12 4

/-- The `x` field, `opcode[11:8]` (R91). -/
def fieldX (w : Opcode) : Reg := w.extractLsb' 8 4

/-- The `y` field, `opcode[7:4]` (R91). -/
def fieldY (w : Opcode) : Reg := w.extractLsb' 4 4

/-- The `n` field, `opcode[3:0]` (R91). -/
def fieldN (w : Opcode) : Nibble := w.extractLsb' 0 4

/-- The `kk` field, `opcode[7:0]` (R91). -/
def fieldKK (w : Opcode) : Byte := w.extractLsb' 0 8

/-- The `nnn` field, `opcode[11:0]` (R91). -/
def fieldNNN (w : Opcode) : Addr := w.extractLsb' 0 12

/-- Group 0: the secondary selector is the whole `nnn` (R94). -/
def decodeGroup0 (w : Opcode) : Except Unrecognized Instr :=
  match (fieldNNN w).toNat with
  | 0x0E0 => .ok .cls
  | 0x0EE => .ok .ret
  | _ => .error .group0

/-- Group 5: the secondary selector is `n`, which must be 0 (R94). -/
def decodeGroup5 (w : Opcode) : Except Unrecognized Instr :=
  match (fieldN w).toNat with
  | 0x0 => .ok (.seReg (fieldX w) (fieldY w))
  | _ => .error .group5

/-- Group 8: the secondary selector is `n`, one of 0 to 7 and E (R94). -/
def decodeGroup8 (w : Opcode) : Except Unrecognized Instr :=
  match (fieldN w).toNat with
  | 0x0 => .ok (.ldReg (fieldX w) (fieldY w))
  | 0x1 => .ok (.orReg (fieldX w) (fieldY w))
  | 0x2 => .ok (.andReg (fieldX w) (fieldY w))
  | 0x3 => .ok (.xorReg (fieldX w) (fieldY w))
  | 0x4 => .ok (.addReg (fieldX w) (fieldY w))
  | 0x5 => .ok (.sub (fieldX w) (fieldY w))
  | 0x6 => .ok (.shr (fieldX w) (fieldY w))
  | 0x7 => .ok (.subn (fieldX w) (fieldY w))
  | 0xE => .ok (.shl (fieldX w) (fieldY w))
  | _ => .error .group8

/-- Group 9: the secondary selector is `n`, which must be 0 (R94). -/
def decodeGroup9 (w : Opcode) : Except Unrecognized Instr :=
  match (fieldN w).toNat with
  | 0x0 => .ok (.sneReg (fieldX w) (fieldY w))
  | _ => .error .group9

/-- Group E: the secondary selector is `kk` (R94). -/
def decodeGroupE (w : Opcode) : Except Unrecognized Instr :=
  match (fieldKK w).toNat with
  | 0x9E => .ok (.skp (fieldX w))
  | 0xA1 => .ok (.sknp (fieldX w))
  | _ => .error .groupE

/-- Group F: the secondary selector is `kk` (R94). -/
def decodeGroupF (w : Opcode) : Except Unrecognized Instr :=
  match (fieldKK w).toNat with
  | 0x07 => .ok (.ldVxDt (fieldX w))
  | 0x0A => .ok (.ldVxK (fieldX w))
  | 0x15 => .ok (.ldDtVx (fieldX w))
  | 0x18 => .ok (.ldStVx (fieldX w))
  | 0x1E => .ok (.addI (fieldX w))
  | 0x29 => .ok (.ldF (fieldX w))
  | 0x33 => .ok (.ldB (fieldX w))
  | 0x55 => .ok (.ldMemVx (fieldX w))
  | 0x65 => .ok (.ldVxMem (fieldX w))
  | _ => .error .groupF

/-- Decode one opcode: by the top nibble, then by the secondary selector (R94). A pure function of the 16 bits. -/
def decode (w : Opcode) : Except Unrecognized Instr :=
  match (fieldOp w).toNat with
  | 0x0 => decodeGroup0 w
  | 0x1 => .ok (.jp (fieldNNN w))
  | 0x2 => .ok (.call (fieldNNN w))
  | 0x3 => .ok (.seByte (fieldX w) (fieldKK w))
  | 0x4 => .ok (.sneByte (fieldX w) (fieldKK w))
  | 0x5 => decodeGroup5 w
  | 0x6 => .ok (.ldByte (fieldX w) (fieldKK w))
  | 0x7 => .ok (.addByte (fieldX w) (fieldKK w))
  | 0x8 => decodeGroup8 w
  | 0x9 => decodeGroup9 w
  | 0xA => .ok (.ldI (fieldNNN w))
  | 0xB => .ok (.jpV0 (fieldNNN w))
  | 0xC => .ok (.rnd (fieldX w) (fieldKK w))
  | 0xD => .ok (.drw (fieldX w) (fieldY w) (fieldN w))
  | 0xE => decodeGroupE w
  | _ => decodeGroupF w

/-- The opcode of two bytes as they lie in memory, the high byte first (R64, R90; notes/assumptions/20.md). -/
def opcodeOfBytes (hi lo : Byte) : Opcode := hi ++ lo

/-- The high byte of an opcode, the one at the lower address (R64). -/
def opcodeHi (w : Opcode) : Byte := w.extractLsb' 8 8

/-- The low byte of an opcode, the one at the higher address (R64). -/
def opcodeLo (w : Opcode) : Byte := w.extractLsb' 0 8

/-- Decode the two bytes of an instruction, the one at the lower address first. -/
def decodeBytes (hi lo : Byte) : Except Unrecognized Instr := decode (opcodeOfBytes hi lo)

/-- The opcode of an instruction, written from the patterns of R95 and the formats of R92. -/
def encode : Instr → Opcode
  | .cls => 0x00E0#16
  | .ret => 0x00EE#16
  | .jp nnn => 0x1#4 ++ nnn
  | .call nnn => 0x2#4 ++ nnn
  | .seByte x kk => 0x3#4 ++ x ++ kk
  | .sneByte x kk => 0x4#4 ++ x ++ kk
  | .seReg x y => 0x5#4 ++ x ++ y ++ 0x0#4
  | .ldByte x kk => 0x6#4 ++ x ++ kk
  | .addByte x kk => 0x7#4 ++ x ++ kk
  | .ldReg x y => 0x8#4 ++ x ++ y ++ 0x0#4
  | .orReg x y => 0x8#4 ++ x ++ y ++ 0x1#4
  | .andReg x y => 0x8#4 ++ x ++ y ++ 0x2#4
  | .xorReg x y => 0x8#4 ++ x ++ y ++ 0x3#4
  | .addReg x y => 0x8#4 ++ x ++ y ++ 0x4#4
  | .sub x y => 0x8#4 ++ x ++ y ++ 0x5#4
  | .shr x y => 0x8#4 ++ x ++ y ++ 0x6#4
  | .subn x y => 0x8#4 ++ x ++ y ++ 0x7#4
  | .shl x y => 0x8#4 ++ x ++ y ++ 0xE#4
  | .sneReg x y => 0x9#4 ++ x ++ y ++ 0x0#4
  | .ldI nnn => 0xA#4 ++ nnn
  | .jpV0 nnn => 0xB#4 ++ nnn
  | .rnd x kk => 0xC#4 ++ x ++ kk
  | .drw x y n => 0xD#4 ++ x ++ y ++ n
  | .skp x => 0xE#4 ++ x ++ 0x9E#8
  | .sknp x => 0xE#4 ++ x ++ 0xA1#8
  | .ldVxDt x => 0xF#4 ++ x ++ 0x07#8
  | .ldVxK x => 0xF#4 ++ x ++ 0x0A#8
  | .ldDtVx x => 0xF#4 ++ x ++ 0x15#8
  | .ldStVx x => 0xF#4 ++ x ++ 0x18#8
  | .addI x => 0xF#4 ++ x ++ 0x1E#8
  | .ldF x => 0xF#4 ++ x ++ 0x29#8
  | .ldB x => 0xF#4 ++ x ++ 0x33#8
  | .ldMemVx x => 0xF#4 ++ x ++ 0x55#8
  | .ldVxMem x => 0xF#4 ++ x ++ 0x65#8

/-- A table word of `nbits` bits as the 16-bit opcode: the bits above `nbits` are 0. -/
def opcodeOfTableWord (nbits w : Nat) : Opcode := BitVec.ofNat 16 (w % 2 ^ nbits)

/-- The instruction the decoder reads from a word numbered as spec/opcode_table.json numbers it, laid out in memory order
(high byte at the lower address, R64) and given to the decoder byte by byte. -/
def decodeTableWord (nbits w : Nat) : Option Instr :=
  let opcode := opcodeOfTableWord nbits w
  match decodeBytes (opcodeHi opcode) (opcodeLo opcode) with
  | .ok i => some i
  | .error _ => none

end Sys2Proof
end

