-- ==== Sys2Proof/Machine/Tables.lean ====
section
/-!
DEFINITION. The default tables of the configuration: the font of spec/70_reset_and_hazards.md R274 and the key map of
spec/43_keys_timers.md R186.
-/

namespace Sys2Proof.Machine

/-- The default font, glyph by glyph, five rows each, top row first (R274's table; notes/assumptions/15.md). -/
def fontTable : List Byte :=
  [0xF0, 0x90, 0x90, 0x90, 0xF0] ++  -- 0
  [0x20, 0x60, 0x20, 0x20, 0x70] ++  -- 1
  [0xF0, 0x10, 0xF0, 0x80, 0xF0] ++  -- 2
  [0xF0, 0x10, 0xF0, 0x10, 0xF0] ++  -- 3
  [0x90, 0x90, 0xF0, 0x10, 0x10] ++  -- 4
  [0xF0, 0x80, 0xF0, 0x10, 0xF0] ++  -- 5
  [0xF0, 0x80, 0xF0, 0x90, 0xF0] ++  -- 6
  [0xF0, 0x10, 0x20, 0x40, 0x40] ++  -- 7
  [0xF0, 0x90, 0xF0, 0x90, 0xF0] ++  -- 8
  [0xF0, 0x90, 0xF0, 0x10, 0xF0] ++  -- 9
  [0xF0, 0x90, 0xF0, 0x90, 0x90] ++  -- A
  [0xE0, 0x90, 0xE0, 0x90, 0xE0] ++  -- B
  [0xF0, 0x80, 0x80, 0x80, 0xF0] ++  -- C
  [0xE0, 0x90, 0x90, 0x90, 0xE0] ++  -- D
  [0xF0, 0x80, 0xF0, 0x80, 0xF0] ++  -- E
  [0xF0, 0x80, 0xF0, 0x80, 0x80]     -- F

/-- The default `FONT` (R274). -/
def defaultFont : Vector Byte 80 := ⟨fontTable.toArray, rfl⟩

/-- The default `KEYMAP_TABLE`: the host codes of the CHIP-8 codes 0 to 15 in order (R186). -/
def defaultKeymapTable : Vector Nat 16 :=
  ⟨#[48, 49, 50, 51, 52, 53, 54, 55, 56, 57, 113, 119, 101, 114, 116, 121], rfl⟩

/-- The default configuration: the default font, the default key map, no raw passthrough (R186, R274). -/
def defaultParams : Params where
  font := defaultFont
  keymapTable := defaultKeymapTable
  keymapRaw := false

/-- What an address of `MEM` that lists nothing reads as: the reset contents, that is the default font at 0x000..0x04F
(R274) and 0x00 elsewhere (R40, R68, spec decision D24; notes/assumptions/17.md). -/
def resetByte (a : Nat) : Byte := fontTable.getD a 0

end Sys2Proof.Machine
end

