-- ==== Sys2Proof/Machine/State.lean ====
section
/-!
DEFINITION. The state of one instance of the CHIP-8 CORE (spec/10_state.md R20 to R43), its reset value (R40), and the
reasons a step can stop. Plain data throughout.
-/

namespace Sys2Proof.Machine

/-- `RUNSTATE` (R32): three active states and three terminal ones. -/
inductive RunState where
  | running
  | paused
  | waitingForKey
  | terminatedNormal
  | terminatedError
  | cancelled
  deriving DecidableEq, Repr

/-- `FAULT_CAUSE` (R35): no fault, or one of the three synchronous faults of R220. -/
inductive FaultCause where
  /-- code 0 -/
  | none
  /-- code 1: decode found an unrecognized encoding (R221) -/
  | unsupportedInstruction
  /-- code 2: `RET` with an empty stack (R222) -/
  | stackUnderflow
  /-- code 3: `CALL` with a full stack (R223) -/
  | stackOverflow
  deriving DecidableEq, Repr

/-- One thing the host can do to an instance (R245). -/
inductive HostAction where
  /-- `set_key(h)` or `set_key(none)` -/
  | setKey (key : Option Nat)
  /-- `pause`: `PAUSE <- 1` -/
  | pause
  /-- `resume`: `PAUSE <- 0` -/
  | resume
  /-- `cancel`: `CANCEL <- 1` -/
  | cancel
  /-- `clock_up` (R240) -/
  | clockUp
  /-- `clock_down` (R240) -/
  | clockDown
  /-- `timer_up` (R240) -/
  | timerUp
  /-- `timer_down` (R240) -/
  | timerDown
  /-- `load(image)` and reset: the instance is discarded and a fresh one constructed (R270) -/
  | reset (image : List Byte)
  deriving DecidableEq, Repr

/-- The state of one instance, and the three fields of the model's own that stand for what the spec leaves free. -/
structure State where
  /-- `V[0]`..`V[15]`; VF is `V[15]` (R20, R21) -/
  v : Vector Byte 16
  /-- the address register `I` (R22) -/
  i : Addr
  /-- the program counter `PC` (R23) -/
  pc : Addr
  /-- `SP`, the number of stack entries in use, 0 to 16 (R26) -/
  sp : Fin 17
  /-- `STACK[0]`..`STACK[15]` (R26) -/
  stack : Vector Addr 16
  /-- the delay timer `DT` (R28) -/
  dt : Byte
  /-- the sound timer `ST` (R29) -/
  st : Byte
  /-- the pixel buffer: entry k of `PB` is bit k (R30) -/
  pb : BitVec 2048
  /-- the keyboard latch `KEY` (R31) -/
  key : Option Nat
  /-- `RUNSTATE` (R32) -/
  runState : RunState
  /-- `WAITREG`, the register a waiting `LD Vx, K` will load (R33) -/
  waitReg : Reg
  /-- `PROG_END` (R34) -/
  progEnd : BitVec 13
  /-- `FAULT_CAUSE` (R35) -/
  faultCause : FaultCause
  /-- `FAULT_INFO`, the opcode that faulted (R35) -/
  faultInfo : Opcode
  /-- the request flag `PAUSE`, a level (R36) -/
  pause : Bool
  /-- the request flag `CANCEL`, sticky (R36) -/
  cancel : Bool
  /-- `CLOCK_RATE` (R37) -/
  clockRate : Nat
  /-- `TIMER_RATE` (R37) -/
  timerRate : Nat
  /-- `END_NOTIFIED` (R38) -/
  endNotified : Bool
  /-- the `WAIT_NOTIFY` pulse (R38): set by the step that enters `WaitingForKey`, cleared by the next
  (notes/assumptions/11.md) -/
  waitNotify : Bool
  /-- `MEM` (R39): the cells whose byte differs from `resetByte`, addresses strictly rising and below 4096 -/
  mem : List Host.Cell
  /-- the configuration of the instance: `FONT` and the key map (R5, R186) -/
  params : Params
  /-- MODEL'S OWN FIELD, no state of the spec: the n-th list is what the host does at the n-th coming step boundary
  (R5, R245). DESIGN CHOICE: the list is finite and the host is quiet at every boundary past its end, so every finite
  stretch of host behaviour is some schedule, an endless one is not (notes/assumptions/1.md) -/
  inbox : List (List HostAction)
  /-- MODEL'S OWN FIELD: how many step boundaries there have been, the argument of the free tick count (R239;
  notes/assumptions/2.md) -/
  boundary : Nat
  /-- MODEL'S OWN FIELD: how many random bytes have been drawn, the argument of the free random byte (R151;
  notes/assumptions/3.md) -/
  draws : Nat
  deriving DecidableEq, Repr

/-- Why a step can stop with a fault. The three faults of R220 are no such stop: fault entry is a next state (R224). -/
inductive Fault where
  /-- Raised by a host reset whose image has a length outside 1 to 3584 (R273): the old instance is discarded and no new one
  starts, so there is no next state. Safe: the model stops where the hardware has no instance (notes/assumptions/14.md). -/
  | startupError (imageBytes : Nat)
  deriving DecidableEq, Repr

/-- Why a step can be refused. -/
inductive Refusal where
  /-- Raised by an arm of `exec` for an instruction that has no meaning yet. Safe: the model stops. No arm does. -/
  | notModelled (mnemonic : String)
  deriving DecidableEq, Repr

/-- The machine right after reset, as R40 gives it, with no program loaded (notes/assumptions/7.md: `PROG_END`;
notes/assumptions/4.md, 5.md, 6.md: the three registers R40 leaves unspecified; notes/assumptions/17.md: the zeros). -/
def State.reset : State where
  v := Vector.replicate 16 0
  i := 0
  pc := 0x200
  sp := 0
  stack := Vector.replicate 16 0
  dt := 0
  st := 0
  pb := 0
  key := none
  runState := .running
  waitReg := 0
  progEnd := 0x200
  faultCause := .none
  faultInfo := 0
  pause := false
  cancel := false
  clockRate := Config.clockRateDefault
  timerRate := Config.timerRateDefault
  endNotified := false
  waitNotify := false
  mem := []
  params := defaultParams
  inbox := []
  boundary := 0
  draws := 0

end Sys2Proof.Machine
end

