-- ==== Sys2Proof/Machine/Ops.lean ====
section
/-!
DEFINITION. The named operations over registers, memory, the pixel buffer, the call stack, the key map and the run-control
registers; fault entry. Every meaning is written over these (spec/00_scope.md R7 names the primitives).
-/

namespace Sys2Proof.Machine

/-- What a meaning answers. -/
abbrev Result := Host.Outcome State Fault Refusal

/-! ### General registers -/

/-- `V[x]` (R7, R20). -/
def State.getV (s : State) (x : Reg) : Byte := s.v[x.toNat]'x.isLt

/-- `V[x] <- b` (R7, R20). -/
def State.setV (s : State) (x : Reg) (b : Byte) : State := { s with v := s.v.set x.toNat b x.isLt }

/-! ### `I`, `PC` and the timers -/

/-- `I <- a` (R22). -/
def State.setI (s : State) (a : Addr) : State := { s with i := a }

/-- `PC <- a` (R23). -/
def State.setPc (s : State) (a : Addr) : State := { s with pc := a }

/-- The advance past one instruction, `PC <- (PC + 2) mod 4096`: right after a fetch (R24), and again for a skip taken (R123). -/
def State.advancePc (s : State) : State := s.setPc (s.pc + 2#12)

/-- `if c then PC <- (PC + 2) mod 4096`: skip the next instruction (R123 to R126, R180, R181). -/
def State.skipIf (s : State) (c : Bool) : State := if c then s.advancePc else s

/-- `DT <- b` (R184). -/
def State.setDt (s : State) (b : Byte) : State := { s with dt := b }

/-- `ST <- b` (R185). -/
def State.setSt (s : State) (b : Byte) : State := { s with st := b }

/-! ### Memory: a list of cells in one canonical form -/

/-- The byte a list of cells holds at an address: the first cell of that address, else the reset contents. -/
def Memory.read (a : Nat) : List Host.Cell → Byte
  | [] => resetByte a
  | c :: rest => if c.1 = a then c.2 else Memory.read a rest

/-- The cells without those of one address. -/
def Memory.erase (a : Nat) : List Host.Cell → List Host.Cell
  | [] => []
  | c :: rest => if c.1 = a then Memory.erase a rest else c :: Memory.erase a rest

/-- The cells with one more, put before the first cell of a higher address. -/
def Memory.insert (a : Nat) (b : Byte) : List Host.Cell → List Host.Cell
  | [] => [(a, b)]
  | c :: rest => if a < c.1 then (a, b) :: c :: rest else c :: Memory.insert a b rest

/-- Write one byte: a byte equal to the reset contents leaves no cell, any other leaves one. -/
def Memory.write (a : Nat) (b : Byte) (m : List Host.Cell) : List Host.Cell :=
  if b = resetByte a then Memory.erase a m else Memory.insert a b (Memory.erase a m)

/-- Write bytes at ascending addresses, each reduced modulo 4096 (R272, R274). -/
def Memory.writeAll (a : Nat) : List Byte → List Host.Cell → List Host.Cell
  | [], m => m
  | b :: rest, m => Memory.writeAll (a + 1) rest (Memory.write (a % Config.memBytes) b m)

/-- The canonical form: addresses strictly rising and below 4096, no cell equal to what an unlisted address reads as. -/
def Memory.wf (m : List Host.Cell) : Bool :=
  decide (m.Pairwise fun c d => c.1 < d.1) && m.all fun c => decide (c.1 < Config.memBytes) && c.2 != resetByte c.1

/-- `MemRead(a, 1)` (R7, R61): an address is 12 bits, so every access is inside the 4096 bytes. -/
def State.memRead (s : State) (a : Addr) : Byte := Memory.read a.toNat s.mem

/-- `MemWrite(a, 1, b)` (R7, R61). -/
def State.memWrite (s : State) (a : Addr) (b : Byte) : State := { s with mem := Memory.write a.toNat b s.mem }

/-- The opcode at `PC`: the byte at `PC` is the high one, the byte at `(PC + 1) & 0xFFF` the low one (R64, R90). -/
def State.fetch (s : State) : Opcode := opcodeOfBytes (s.memRead s.pc) (s.memRead (s.pc + 1#12))

/-! ### The pixel buffer -/

/-- `PB[k]`, the index reduced modulo 2048 first (R30, R62). -/
def State.pixel (s : State) (k : Nat) : Bool := s.pb.getLsbD (k % Config.pbEntries)

/-- `PB[k] <- b`, the index reduced modulo 2048 first (R30, R62). -/
def State.setPixel (s : State) (k : Nat) (b : Bool) : State :=
  let bit := BitVec.twoPow 2048 (k % Config.pbEntries)
  { s with pb := if b then s.pb ||| bit else s.pb &&& ~~~bit }

/-- `for k = 0 .. 2047: PB[k] <- 0` (R170). -/
def State.clearPixels (s : State) : State := { s with pb := 0 }

/-! ### Fault entry and the other writes of the run-control registers -/

/-- Enter a terminal state and emit the one end-of-execution notification (R236). -/
def State.terminate (s : State) (r : RunState) : State := { s with runState := r, endNotified := true }

/-- FAULT ENTRY (R224), the one way a fault is taken: the cause and the opcode are recorded, `RUNSTATE` becomes
`TerminatedError`, the notification is emitted, and nothing else changes; `PC` stays advanced. There is no return from it
(R226): only a host reset leaves a terminal state. -/
def State.raise (s : State) (cause : FaultCause) (opcode : Opcode) : State :=
  { s.terminate .terminatedError with faultCause := cause, faultInfo := opcode }

/-- The numeric code of `FAULT_CAUSE` (R35, R220). -/
def faultCode : FaultCause → BitVec 2
  | .none => 0#2
  | .unsupportedInstruction => 1#2
  | .stackUnderflow => 2#2
  | .stackOverflow => 3#2

/-- Enter `WaitingForKey` for register `x` and emit `WAIT_NOTIFY` (R183, R236). -/
def State.waitForKey (s : State) (x : Reg) : State :=
  { s with waitReg := x, runState := .waitingForKey, waitNotify := true }

/-! ### The call stack -/

/-- `Push(a)` (R27): nothing when the stack is full, and then the caller raises `StackOverflow`. -/
def State.push (s : State) (a : Addr) : Option State :=
  if h : s.sp.val < Config.stackDepth then
    some { s with stack := s.stack.set s.sp.val a h, sp := ⟨s.sp.val + 1, Nat.succ_lt_succ h⟩ }
  else none

/-- `Pop()` (R27): nothing when the stack is empty, and then the caller raises `StackUnderflow`. The entry is not erased. -/
def State.pop (s : State) : Option (Addr × State) :=
  if h : 0 < s.sp.val then
    some (s.stack[s.sp.val - 1]'(by have := s.sp.isLt; omega),
      { s with sp := ⟨s.sp.val - 1, by have := s.sp.isLt; omega⟩ })
  else none

/-! ### The key-code mapper -/

/-- The least position from `c` on whose entry equals `h` (R186). -/
def leastCode (h : Nat) (c : Nat) : List Nat → Option Nat
  | [] => none
  | entry :: rest => if entry = h then some c else leastCode h (c + 1) rest

/-- `KeyMap(h)` (R186): raw passthrough when `KEYMAP_RAW` is set, else the least CHIP-8 code whose table entry is `h`. -/
def keyMap (p : Params) (h : Nat) : Option (BitVec 4) :=
  if p.keymapRaw then
    if h ≤ 15 then some (BitVec.ofNat 4 h) else none
  else (leastCode h 0 p.keymapTable.toList).map (BitVec.ofNat 4)

/-! ### The random source -/

/-- `Rand()` (R151): a fresh free byte, and the state with one draw more. -/
def State.rand (s : State) : Byte × State := (Config.randomByte s.draws, { s with draws := s.draws + 1 })

/-! ### The loop of the pseudocode -/

/-- `for k = 0 .. n-1: body k`, in ascending order. -/
def forEach : Nat → (Nat → State → State) → State → State
  | 0, _, s => s
  | n + 1, body, s => body n (forEach n body s)

end Sys2Proof.Machine
end

