-- ==== Sys2Proof/Machine/Flags.lean ====
section
/-!
DEFINITION. The flag computations: VF is the only flag (spec/10_state.md R21), and the six instructions
that R21 lists write it (it counts them as seven: notes/assumptions/27.md).
-/

namespace Sys2Proof.Machine

/-- The carry out of `a + b`: the 9-bit sum exceeds 255 (R146). -/
def carryOut (a b : Byte) : Bool := decide (255 < a.toNat + b.toNat)

/-- Not borrow of `a − b`: 1 iff `a ≥ b` (R147, R149). -/
def notBorrow (a b : Byte) : Bool := decide (b.toNat ≤ a.toNat)

/-- The bit a right shift by one shifts out, `a[0]` (R148). -/
def shiftedOutRight (a : Byte) : Bool := a.getLsbD 0

/-- The bit a left shift by one shifts out, `a[7]` (R150). -/
def shiftedOutLeft (a : Byte) : Bool := a.getLsbD 7

/-- `VF <- (if f then 1 else 0)` (R21). -/
def State.setFlag (s : State) (f : Bool) : State := s.setV vf (bitByte f)

/-- The order of the five ALU flag writers (R21): the result goes to `V[x]` first, the flag to VF after it, so with `x = 15`
the flag wins. Result and flag were computed from the source values before either write. -/
def State.writeResultThenFlag (s : State) (x : Reg) (result : Byte) (flag : Bool) : State :=
  (s.setV x result).setFlag flag

end Sys2Proof.Machine
end

