-- ==== Sys2Proof/Machine/Operands.lean ====
section
/-!
DEFINITION. The operand forms (spec/30_encoding.md R93, spec/44_index_memory.md R206). A register operand is `getV`, an
immediate is used as it stands; what is left is the one addressing mode and the key operand.
-/

namespace Sys2Proof.Machine

/-- `EA(k) = (I + k) & 0xFFF`: register indirect through `I` with an implicit ascending byte offset (R206, R76). -/
def State.ea (s : State) (k : Nat) : Addr := s.i + BitVec.ofNat 12 k

/-- The register with number k, for the bulk transfers `for k = 0 .. x` (R204, R205). -/
def regOf (k : Nat) : Reg := BitVec.ofNat 4 k

/-- The CHIP-8 code of the key in the latch: `KeyMap(KEY)` when `KEY` is not none (R180, R183, R186). -/
def State.pressedCode (s : State) : Option (BitVec 4) := s.key.bind (keyMap s.params)

/-- `KEY ≠ none and KeyMap(KEY) = some c and c = V[x]`, `V[x]` at its full 8 bits (R180, R181). -/
def State.keyPressed (s : State) (x : Reg) : Bool :=
  match s.pressedCode with
  | some c => c.setWidth 8 == s.getV x
  | none => false

/-- The address of glyph `V[x]` in the font, `V[x] * 5` on the full 8 bits (R202). -/
def State.glyphAddr (s : State) (x : Reg) : Addr := zext12 (s.getV x) * 5#12

/-- The hundreds digit of a byte (R203). -/
def hundreds (b : Byte) : Byte := b / 100#8

/-- The tens digit of a byte (R203). -/
def tens (b : Byte) : Byte := b / 10#8 % 10#8

/-- The ones digit of a byte (R203). -/
def ones (b : Byte) : Byte := b % 10#8

end Sys2Proof.Machine
end

