-- ==== Sys2Proof/Machine/Alu.lean ====
section
/-!
DEFINITION. The load, arithmetic, logic, shift and random instructions (spec/41_alu.md R140 to R153).
-/

namespace Sys2Proof.Machine

/-- `LD Vx, byte` (R140). -/
def execLdByte (x : Reg) (kk : Byte) (s : State) : Result := .next (s.setV x kk)

/-- `ADD Vx, byte` (R141): no flag. -/
def execAddByte (x : Reg) (kk : Byte) (s : State) : Result := .next (s.setV x (s.getV x + kk))

/-- `LD Vx, Vy` (R142). -/
def execLdReg (x y : Reg) (s : State) : Result := .next (s.setV x (s.getV y))

/-- `OR Vx, Vy` (R143): no flag (notes/assumptions/27.md). -/
def execOrReg (x y : Reg) (s : State) : Result := .next (s.setV x (s.getV x ||| s.getV y))

/-- `AND Vx, Vy` (R144): no flag (notes/assumptions/27.md). -/
def execAndReg (x y : Reg) (s : State) : Result := .next (s.setV x (s.getV x &&& s.getV y))

/-- `XOR Vx, Vy` (R145): no flag (notes/assumptions/27.md). -/
def execXorReg (x y : Reg) (s : State) : Result := .next (s.setV x (s.getV x ^^^ s.getV y))

/-- `ADD Vx, Vy` (R146). -/
def execAddReg (x y : Reg) (s : State) : Result :=
  let a := s.getV x
  let b := s.getV y
  .next (s.writeResultThenFlag x (a + b) (carryOut a b))

/-- `SUB Vx, Vy` (R147): `V[x] − V[y]`. -/
def execSub (x y : Reg) (s : State) : Result :=
  let a := s.getV x
  let b := s.getV y
  .next (s.writeResultThenFlag x (a - b) (notBorrow a b))

/-- `SHR Vx` (R148): `V[x]` in place; the `y` field is ignored (notes/assumptions/21.md). -/
def execShr (x _y : Reg) (s : State) : Result :=
  let a := s.getV x
  .next (s.writeResultThenFlag x (a >>> 1) (shiftedOutRight a))

/-- `SUBN Vx, Vy` (R149): `V[y] − V[x]`. -/
def execSubn (x y : Reg) (s : State) : Result :=
  let a := s.getV x
  let b := s.getV y
  .next (s.writeResultThenFlag x (b - a) (notBorrow b a))

/-- `SHL Vx` (R150): `V[x]` in place; the `y` field is ignored (notes/assumptions/21.md). -/
def execShl (x _y : Reg) (s : State) : Result :=
  let a := s.getV x
  .next (s.writeResultThenFlag x (a <<< 1) (shiftedOutLeft a))

/-- `RND Vx, byte` (R151): a free byte, and with `kk`. -/
def execRnd (x : Reg) (kk : Byte) (s : State) : Result :=
  match s.rand with
  | (r, s') => .next (s'.setV x (r &&& kk))

end Sys2Proof.Machine
end

