-- ==== Sys2Proof/Machine/Control.lean ====
section
/-!
DEFINITION. The control-transfer instructions (spec/40_control_flow.md R120 to R128). `PC` is already advanced (R24, R101).
-/

namespace Sys2Proof.Machine

/-- `RET` (R120): `PC <- Pop()`; with an empty stack, fault entry with `StackUnderflow` and the opcode (R222, R224). -/
def execRet (s : State) : Result :=
  match s.pop with
  | some (a, s') => .next (s'.setPc a)
  | none => .next (s.raise .stackUnderflow (encode .ret))

/-- `JP addr` (R121). -/
def execJp (nnn : Addr) (s : State) : Result := .next (s.setPc nnn)

/-- `CALL addr` (R122): `Push(PC); PC <- nnn`; with a full stack, fault entry with `StackOverflow` and the opcode (R223, R224). -/
def execCall (nnn : Addr) (s : State) : Result :=
  match s.push s.pc with
  | some s' => .next (s'.setPc nnn)
  | none => .next (s.raise .stackOverflow (encode (.call nnn)))

/-- `SE Vx, byte` (R123). -/
def execSeByte (x : Reg) (kk : Byte) (s : State) : Result := .next (s.skipIf (s.getV x == kk))

/-- `SNE Vx, byte` (R124). -/
def execSneByte (x : Reg) (kk : Byte) (s : State) : Result := .next (s.skipIf (s.getV x != kk))

/-- `SE Vx, Vy` (R125). -/
def execSeReg (x y : Reg) (s : State) : Result := .next (s.skipIf (s.getV x == s.getV y))

/-- `SNE Vx, Vy` (R126). -/
def execSneReg (x y : Reg) (s : State) : Result := .next (s.skipIf (s.getV x != s.getV y))

/-- `JP V0, addr` (R127): the sum wraps modulo 4096. -/
def execJpV0 (nnn : Addr) (s : State) : Result := .next (s.setPc (nnn + zext12 (s.getV 0)))

end Sys2Proof.Machine
end

