-- ==== Sys2Proof/Machine/Display.lean ====
section
/-!
DEFINITION. The pixel-buffer instructions (spec/42_display.md R170 to R173).
-/

namespace Sys2Proof.Machine

/-- `CLS` (R170). -/
def execCls (s : State) : Result := .next s.clearPixels

/-- The entry a sprite pixel lands on, `((ox + col) + (oy + row) * 64) mod 2048`: the origin is not reduced first (R171;
notes/assumptions/26.md). -/
def pixelIndex (ox oy : Byte) (row col : Nat) : Nat :=
  ((ox.toNat + col) + (oy.toNat + row) * Config.pbWidth) % Config.pbEntries

/-- The bit of a row byte for one column: column 0 is bit 7 (R171; notes/assumptions/26.md). -/
def spriteBit (b : Byte) (col : Nat) : Bool := b.getLsbD (7 - col)

/-- One pixel: `if bit = 1 and PB[k] = 1 then VF <- 1; PB[k] <- PB[k] ^ bit` (R171). -/
def drawPixel (k : Nat) (bit : Bool) (s : State) : State :=
  let hit := bit && s.pixel k
  let s' := if hit then s.setFlag true else s
  s'.setPixel k (s.pixel k ^^ bit)

/-- One sprite row: the byte at `(I + row) & 0xFFF`, columns 0 to 7 (R171). -/
def drawRow (ox oy : Byte) (row : Nat) (s : State) : State :=
  let b := s.memRead (s.ea row)
  forEach 8 (fun col => drawPixel (pixelIndex ox oy row col) (spriteBit b col)) s

/-- `DRW Vx, Vy, nibble` (R171): the operands are latched first, then VF is cleared, then the rows are drawn. -/
def execDrw (x y : Reg) (n : Nibble) (s : State) : Result :=
  let ox := s.getV x
  let oy := s.getV y
  .next (forEach n.toNat (drawRow ox oy) (s.setFlag false))

end Sys2Proof.Machine
end

