-- ==== Sys2Proof/Machine/IndexMemory.lean ====
section
/-!
DEFINITION. The address-register and memory instructions (spec/44_index_memory.md R200 to R206).
-/

namespace Sys2Proof.Machine

/-- `LD I, addr` (R200). -/
def execLdI (nnn : Addr) (s : State) : Result := .next (s.setI nnn)

/-- `ADD I, Vx` (R201): modulo 4096, no flag (notes/assumptions/27.md). -/
def execAddI (x : Reg) (s : State) : Result := .next (s.setI (s.i + zext12 (s.getV x)))

/-- `LD F, Vx` (R202). -/
def execLdF (x : Reg) (s : State) : Result := .next (s.setI (s.glyphAddr x))

/-- `LD B, Vx` (R203): hundreds, tens and ones at `I`, `I + 1`, `I + 2`. -/
def execLdB (x : Reg) (s : State) : Result :=
  let b := s.getV x
  .next (((s.memWrite (s.ea 0) (hundreds b)).memWrite (s.ea 1) (tens b)).memWrite (s.ea 2) (ones b))

/-- `for k = 0 .. n-1: MemWrite(I + k, 1, V[k])` (R204). -/
def storeRegs (n : Nat) (s : State) : State :=
  forEach n (fun k t => t.memWrite (t.ea k) (t.getV (regOf k))) s

/-- `for k = 0 .. n-1: V[k] <- MemRead(I + k, 1)` (R205). -/
def loadRegs (n : Nat) (s : State) : State :=
  forEach n (fun k t => t.setV (regOf k) (t.memRead (t.ea k))) s

/-- `LD [I], Vx` (R204): registers V0 to Vx inclusive; `I` is unchanged (notes/assumptions/22.md). -/
def execLdMemVx (x : Reg) (s : State) : Result := .next (storeRegs (x.toNat + 1) s)

/-- `LD Vx, [I]` (R205): registers V0 to Vx inclusive; `I` is unchanged (notes/assumptions/22.md). -/
def execLdVxMem (x : Reg) (s : State) : Result := .next (loadRegs (x.toNat + 1) s)

end Sys2Proof.Machine
end

