-- ==== Sys2Proof/Machine/KeysTimers.lean ====
section
/-!
DEFINITION. The keyboard and timer instructions (spec/43_keys_timers.md R180 to R186).
-/

namespace Sys2Proof.Machine

/-- `SKP Vx` (R180; beside R128: notes/assumptions/38.md). -/
def execSkp (x : Reg) (s : State) : Result := .next (s.skipIf (s.keyPressed x))

/-- `SKNP Vx` (R181; beside R128: notes/assumptions/38.md). -/
def execSknp (x : Reg) (s : State) : Result := .next (s.skipIf (!s.keyPressed x))

/-- `LD Vx, DT` (R182). -/
def execLdVxDt (x : Reg) (s : State) : Result := .next (s.setV x s.dt)

/-- `LD Vx, K` (R183): a matching key in the latch gives its code at once; otherwise the CORE waits. -/
def execLdVxK (x : Reg) (s : State) : Result :=
  match s.pressedCode with
  | some c => .next (s.setV x (c.setWidth 8))
  | none => .next (s.waitForKey x)

/-- `LD DT, Vx` (R184). -/
def execLdDtVx (x : Reg) (s : State) : Result := .next (s.setDt (s.getV x))

/-- `LD ST, Vx` (R185). -/
def execLdStVx (x : Reg) (s : State) : Result := .next (s.setSt (s.getV x))

end Sys2Proof.Machine
end

