-- ==== Sys2Proof/Machine/Launch.lean ====
section
/-!
DEFINITION. Reset, font load and program load (spec/70_reset_and_hazards.md R270 to R274).
-/

namespace Sys2Proof.Machine

/-- `MEM` of a fresh instance: the font at 0x000 (R274), the image at 0x200 (R272), 0x00 elsewhere (R40). -/
def launchMem (p : Params) (image : List Byte) : List Host.Cell :=
  Memory.writeAll Config.progBase image (Memory.writeAll 0 p.font.toList [])

/-- The fresh instance of a configuration and an image of a legal size (R270, R272): the reset state of R40 with the font and the
image in memory and `PROG_END` at the first address past the program. -/
def freshInstance (p : Params) (image : List Byte) : State :=
  { State.reset with
    mem := launchMem p image
    params := p
    progEnd := BitVec.ofNat 13 (Config.progBase + image.length) }

/-- Load and reset (R270): the size check of R273 first; an image it rejects starts no instance, and the machine stops with
`startupError`. -/
def launch (p : Params) (image : List Byte) : Result :=
  if imageWellFormed image then .next (freshInstance p image) else .fault (.startupError image.length)

end Sys2Proof.Machine
end

