-- ==== Sys2Proof/Machine/RunControl.lean ====
section
/-!
DEFINITION. The timer tick and its schedule, the host interface, the key-wake step (spec/60_exceptions.md R228 to R247,
spec/43_keys_timers.md R187). The evaluation of a step boundary, which runs instructions, is in Cycle.lean.
-/

namespace Sys2Proof.Machine

/-- The active states are the first three of R32; the other three are terminal. -/
def RunState.active : RunState → Bool
  | .running | .paused | .waitingForKey => true
  | .terminatedNormal | .terminatedError | .cancelled => false

/-! ### Timers -/

/-- `if b > 0 then b − 1 else 0`: a counter never goes below 0 (R238). -/
def countDown (b : Byte) : Byte := if b = 0#8 then 0#8 else b - 1#8

/-- The same counter after n ticks. -/
def countDownBy : Nat → Byte → Byte
  | 0, b => b
  | n + 1, b => countDown (countDownBy n b)

/-- One timer tick: both counters, atomically, and nothing else (R238). -/
def State.tick (s : State) : State := { s with dt := countDown s.dt, st := countDown s.st }

/-- The ticks of one step boundary, n of them. -/
def State.ticks (n : Nat) (s : State) : State := { s with dt := countDownBy n s.dt, st := countDownBy n s.st }

/-- The TIMER agent at a step boundary: a free number of ticks in an active state, none in a terminal one (R239); the counter
of boundaries goes on by one (notes/assumptions/2.md). -/
def State.timerAgent (s : State) : State :=
  let t := if s.runState.active then s.ticks (Config.ticksAt s.boundary) else s
  { t with boundary := s.boundary + 1 }

/-! ### The host's writes -/

/-- `KEY <- k`, and with it the key-wake step (R187): when the CORE waits and the code matches, `V[WAITREG] <- c` and
`RUNSTATE <- Running`, as one transition tied to the delivery. -/
def State.setKey (k : Option Nat) (s : State) : State :=
  let t := { s with key := k }
  match s.runState, t.pressedCode with
  | .waitingForKey, some c => { t.setV t.waitReg (c.setWidth 8) with runState := .running }
  | _, _ => t

/-- `min(CLOCK_RATE + 100, 1000)` (R240). -/
def clockUp (r : Nat) : Nat := min (r + Config.clockRateStep) Config.clockRateMax

/-- `max(CLOCK_RATE − 100, 200)` (R240). -/
def clockDown (r : Nat) : Nat := max (r - Config.clockRateStep) Config.clockRateMin

/-- A timer rate clamped to `[TIMER_RATE_MIN, TIMER_RATE_MAX]` (R37, R240; notes/assumptions/9.md). -/
def clampTimerRate (r : Nat) : Nat := max Config.timerRateMin (min Config.timerRateMax r)

/-- The host's reset request (R270): a fresh instance of the same configuration. The model's own fields go on; the two rates
are free values inside their ranges (R37, R40; notes/assumptions/8.md). -/
def State.hostReset (image : List Byte) (s : State) : Result :=
  match launch s.params image with
  | .next t => .next { t with
      clockRate := Config.clockRateMin + Config.clockRateStep * (Config.clockAfterReset s.boundary).val
      timerRate := clampTimerRate (Config.timerAfterReset s.boundary)
      inbox := s.inbox
      boundary := s.boundary
      draws := s.draws }
  | .fault f => .fault f
  | .refused r => .refused r

/-- What a host action other than reset does to an instance whose run has not ended (R245). -/
def State.hostWrite (a : HostAction) (s : State) : State :=
  match a with
  | .setKey k => s.setKey k
  | .pause => { s with pause := true }
  | .resume => { s with pause := false }
  | .cancel => { s with cancel := true }
  | .clockUp => { s with clockRate := clockUp s.clockRate }
  | .clockDown => { s with clockRate := clockDown s.clockRate }
  | .timerUp => { s with timerRate := clampTimerRate (s.timerRate + Config.timerRateStep) }
  | .timerDown => { s with timerRate := clampTimerRate (s.timerRate - Config.timerRateStep) }
  | .reset _ => s

/-- One host action (R245). Once a run has ended nothing of the instance changes until reset (R247; notes/assumptions/10.md). -/
def hostAct (a : HostAction) (s : State) : Result :=
  match a with
  | .reset image => s.hostReset image
  | a => .next (if s.runState.active then s.hostWrite a else s)

/-- The host actions of one step boundary, in order; a reset whose image is rejected ends the list. -/
def hostActs : List HostAction → State → Result
  | [], s => .next s
  | a :: rest, s =>
    match hostAct a s with
    | .next t => hostActs rest t
    | .fault f => .fault f
    | .refused r => .refused r

/-- What happens at a step boundary before the CORE evaluates it: the `WAIT_NOTIFY` pulse of the last step is over, the host
actions of this boundary land, then the ticks of this boundary (notes/assumptions/13.md). DESIGN CHOICE: an exhausted schedule
reads as no action, so the host is quiet from then on, where R5 leaves it free over the whole run (notes/assumptions/1.md). -/
def arrive (s : State) : Result :=
  match hostActs (s.inbox.headD []) { s with inbox := s.inbox.tail, waitNotify := false } with
  | .next t => .next t.timerAgent
  | .fault f => .fault f
  | .refused r => .refused r

/-! ### The host's reads -/

/-- What the host can read (R245): the pixel buffer, `ST`, `RUNSTATE`, the fault record, the rates, the notifications. -/
structure HostView where
  /-- `PB[0..2047]`, row-major, 64 per row -/
  pixels : List Bool
  /-- `ST` -/
  soundTimer : Byte
  /-- `RUNSTATE` -/
  runState : RunState
  /-- `FAULT_CAUSE` as its code -/
  faultCause : BitVec 2
  /-- `FAULT_INFO` -/
  faultInfo : Opcode
  /-- `CLOCK_RATE` -/
  clockRate : Nat
  /-- `TIMER_RATE` -/
  timerRate : Nat
  /-- the end-of-execution notification has been emitted -/
  endNotified : Bool
  /-- the waiting-for-key notification is being emitted -/
  waitNotify : Bool
  deriving DecidableEq, Repr

/-- The host's reads of a state (R245). -/
def hostView (s : State) : HostView where
  pixels := (List.range Config.pbEntries).map s.pixel
  soundTimer := s.st
  runState := s.runState
  faultCause := faultCode s.faultCause
  faultInfo := s.faultInfo
  clockRate := s.clockRate
  timerRate := s.timerRate
  endNotified := s.endNotified
  waitNotify := s.waitNotify

end Sys2Proof.Machine
end

