-- ==== Sys2Proof/Machine/Cycle.lean ====
section
/-!
DEFINITION. One step of the machine: the instruction step (spec/30_encoding.md R101) and the evaluation of a step boundary
(spec/60_exceptions.md R230).
-/

namespace Sys2Proof.Machine

/-- The instruction step (R101): fetch at `PC`, advance `PC`, decode, execute. An unrecognized encoding takes the fault
`UnsupportedInstruction` with the raw opcode (R96, R221). -/
def instructionStep (s : State) : Result :=
  let opcode := s.fetch
  let t := s.advancePc
  match decodeBytes (opcodeHi opcode) (opcodeLo opcode) with
  | .ok i => exec i t
  | .error _ => .next (t.raise .unsupportedInstruction opcode)

/-- `RUNSTATE = Running`, no request pending: normal termination when `PC ≥ PROG_END`, else one instruction step
(R230 (7) and (8), R232). -/
def runOrEnd (s : State) : Result :=
  if s.progEnd.toNat ≤ s.pc.toNat then .next (s.terminate .terminatedNormal) else instructionStep s

/-- The CORE at a step boundary (R230): the first of (1) to (8) that applies. -/
def evaluateBoundary (s : State) : Result :=
  match s.runState with
  | .terminatedNormal => .next s
  | .terminatedError => .next s
  | .cancelled => .next s
  | .running =>
    if s.cancel then .next (s.terminate .cancelled)
    else if s.pause then .next { s with runState := .paused }
    else runOrEnd s
  | .paused =>
    if s.cancel then .next (s.terminate .cancelled)
    else if s.pause then .next s
    else runOrEnd { s with runState := .running }
  | .waitingForKey =>
    if s.cancel then .next (s.terminate .cancelled)
    else .next s

/-- One step: what arrives at the boundary, then the CORE. -/
def cycle (s : State) : Result :=
  match arrive s with
  | .next t => evaluateBoundary t
  | .fault f => .fault f
  | .refused r => .refused r

/-- Put one instruction where the next step fetches it, and make the next step an instruction step: the two bytes at `PC` and
`(PC + 1) & 0xFFF`; `PROG_END` past them if it was not past `PC` (this stands for the program load of R272); `Running`, no
request flag set and nothing arriving from the host (notes/assumptions/7.md). -/
def placeOpcode (s : State) (w : Opcode) : State :=
  let t := (s.memWrite s.pc (opcodeHi w)).memWrite (s.pc + 1#12) (opcodeLo w)
  { t with
    progEnd := if s.pc.toNat < s.progEnd.toNat then s.progEnd else BitVec.ofNat 13 (min (s.pc.toNat + 2) Config.memBytes)
    runState := .running
    pause := false
    cancel := false
    inbox := [] }

end Sys2Proof.Machine
end

