-- ==== Sys2Proof/Machine/Step.lean ====
section
/-!
DEFINITION. The step of the machine, and the placing of one instruction for it.
-/

namespace Sys2Proof.Machine

/-- One step of the machine: one step boundary and what the CORE does at it (spec/60_exceptions.md R230). -/
def step (s : State) : Host.Outcome State Fault Refusal := cycle s

/-- `s` with the instruction of a table word where `step` fetches its next instruction. -/
def State.withFetchWord (s : State) (nbits w : Nat) : State := placeOpcode s (opcodeOfTableWord nbits w)

end Sys2Proof.Machine
end

