-- ==== Sys2Proof/Safety.lean ====
section
/-!
DEFINITION. What claims speak of: the end of a run (spec/60_exceptions.md R247), the invariant of the machine
(spec/00_scope.md R9 and the relations between fields that the rules of spec/60_exceptions.md keep), and the vocabulary of frames.
-/

namespace Sys2Proof.Machine

/-- A run has ended exactly when `RUNSTATE` is one of the three terminal states (R247). -/
abbrev State.ended (s : State) : Prop := s.runState.active = false

/-- It ended normally exactly when `RUNSTATE = TerminatedNormal` and `FAULT_CAUSE = 0` (R247). -/
abbrev State.endedNormally (s : State) : Prop := s.runState = .terminatedNormal ∧ s.faultCause = .none

/-- `CLOCK_RATE` is in {200, 300, ..., 1000} (R37). -/
abbrev clockLegal (r : Nat) : Prop := 200 ≤ r ∧ r ≤ 1000 ∧ r % 100 = 0

/-- `TIMER_RATE` is inside its bounds, the open parameters of R4 (R37; notes/assumptions/9.md). -/
abbrev timerLegal (r : Nat) : Prop := Config.timerRateMin ≤ r ∧ r ≤ Config.timerRateMax

/-- `PROG_END` is in 0x201..0x1000 once a program is loaded (R34); 0x200 stands for no program (notes/assumptions/7.md). -/
abbrev progEndLegal (e : BitVec 13) : Prop := 0x200 ≤ e.toNat ∧ e.toNat ≤ 0x1000

/-- The invariant of the machine. What the types already give (the widths, `SP` in 0..16) is not repeated.
Memory is in its canonical form; a fault is recorded exactly in `TerminatedError` (R224, R231, R233); the end-of-execution
notification has been emitted exactly in the terminal states (R236); `WAIT_NOTIFY` pulses only in `WaitingForKey` (R236);
`PROG_END` and the two rates are in their ranges (R34, R37). -/
abbrev State.Inv (s : State) : Prop :=
  Memory.wf s.mem = true ∧
  (s.faultCause = .none ↔ s.runState ≠ .terminatedError) ∧
  (s.endNotified = true ↔ s.ended) ∧
  (s.waitNotify = true → s.runState = .waitingForKey) ∧
  progEndLegal s.progEnd ∧
  clockLegal s.clockRate ∧
  timerLegal s.timerRate

/-- What the host reads of a fault that has been taken (R35, R245): its numeric code, the opcode, the terminal state and the
notification. -/
abbrev ReadsFault (t : State) (code : BitVec 2) (opcode : Opcode) : Prop :=
  (hostView t).faultCause = code ∧ (hostView t).faultInfo = opcode ∧ (hostView t).runState = .terminatedError ∧
    (hostView t).endNotified = true

/-- Every byte of `MEM` reads in `t` as it reads in `s`. -/
abbrev SameMemory (s t : State) : Prop := ∀ a : Addr, t.memRead a = s.memRead a

/-- Every byte of `MEM` reads in `t` as it reads in `s`, but for the n bytes from `EA(0)` on, where `EA` is the addressing mode
of R206 in `s`. -/
abbrev SameMemoryOutside (s : State) (n : Nat) (t : State) : Prop :=
  ∀ a : Addr, (∀ k, k < n → a ≠ s.ea k) → t.memRead a = s.memRead a

/-- Every general register but those of `changed` holds in `t` what it holds in `s`. -/
abbrev SameRegsBut (changed : List Reg) (s t : State) : Prop := ∀ r : Reg, r ∉ changed → t.getV r = s.getV r

/-- Only general registers change, and of these only those of `changed`: every other field of the state, every byte of memory
included, is as in `s`. -/
abbrev OnlyRegs (changed : List Reg) (s t : State) : Prop :=
  SameRegsBut changed s t ∧ SameMemory s t ∧ t = { s with v := t.v }

/-- Only `PC` changes. -/
abbrev OnlyPc (s t : State) : Prop := SameRegsBut [] s t ∧ SameMemory s t ∧ t = { s with pc := t.pc }

/-- Only the n bytes of memory from `EA(0)` on change. -/
abbrev OnlyMemory (n : Nat) (s t : State) : Prop :=
  SameRegsBut [] s t ∧ SameMemoryOutside s n t ∧ t = { s with mem := t.mem }

/-- Pixel k is under a 1 bit of the sprite that `DRW Vx, Vy, n` draws in `s`: some row and column of the sprite has the bit
`b[7 - col]` set in the byte at `I + row`, and lands on entry k (spec/42_display.md R171, the set `S` of R172). -/
def State.underSprite (s : State) (x y : Reg) (n : Nibble) (k : Nat) : Prop :=
  ∃ row col, row < n.toNat ∧ col < 8 ∧ (s.memRead (s.i + BitVec.ofNat 12 row)).getLsbD (7 - col) = true ∧
    (((s.getV x).toNat + col) + ((s.getV y).toNat + row) * 64) % 2048 = k

/-- The actions that arrive at the next step boundary hold no reset request. -/
abbrev State.noReset (s : State) : Prop := ∀ image, HostAction.reset image ∉ s.inbox.headD []

/-- Nothing arrives from the host at the next step boundary. -/
abbrev State.hostQuiet (s : State) : Prop := s.inbox.headD [] = []

/-- The next step is an instruction step: `Running`, the host quiet, no request pending, `PC` before `PROG_END`
(R101, R230 (8)). -/
abbrev State.runsNext (s : State) : Prop :=
  s.runState = .running ∧ s.hostQuiet ∧ s.cancel = false ∧ s.pause = false ∧ s.pc.toNat < s.progEnd.toNat

/-- The state in which the CORE evaluates a step boundary at which the host is quiet: the ticks of the boundary have fallen, the
pulse of the last step is over, the model's own schedule has moved on. -/
def State.atBoundary (s : State) : State :=
  State.timerAgent { s with inbox := s.inbox.tail, waitNotify := false }

end Sys2Proof.Machine
end

