-- ==== Sys2Proof/Certificates/Slice0/Obligations.lean ====
section
/-!
DEFINITION. The statements for the provers. Each docstring names the rules of spec/ it formalises; where a clause rests on a
choice the spec marks as its own (a decision D<n> of spec/92_eei_decisions.md) or on a log entry, the docstring says so.
`PC` in a statement about `exec` is the advanced `PC` (R24, R101). A `decode` clause states the encoding that the rule itself
names; the table of all patterns (R95) is marked by the spec as from general knowledge (D35, notes/assumptions/19.md).
-/

open Sys2Proof Sys2Proof.Machine

/-! ### Encoding -/

/-- Words of spec/95_test_vectors.md 2.1 and of the examples of the rules, one or more for each family, decode to the
instructions they stand for; a word of each unrecognized set of R96 is rejected by its name. The patterns are the spec's from
general knowledge (D35). -/
def Obligations.SpecWordsDecode : Prop :=
  decode 0x00E0#16 = .ok .cls ∧ decode 0x00EE#16 = .ok .ret ∧ decode 0x1ABC#16 = .ok (.jp 0xABC#12) ∧
  decode 0x332A#16 = .ok (.seByte 0x3#4 0x2A#8) ∧ decode 0x6A3C#16 = .ok (.ldByte 0xA#4 0x3C#8) ∧
  decode 0x8125#16 = .ok (.sub 0x1#4 0x2#4) ∧ decode 0x812E#16 = .ok (.shl 0x1#4 0x2#4) ∧
  decode 0xD01F#16 = .ok (.drw 0x0#4 0x1#4 0xF#4) ∧ decode 0xE2A1#16 = .ok (.sknp 0x2#4) ∧
  decode 0xF129#16 = .ok (.ldF 0x1#4) ∧ decode 0xF265#16 = .ok (.ldVxMem 0x2#4) ∧
  decode 0x0000#16 = .error .group0 ∧ decode 0x512F#16 = .error .group5 ∧ decode 0x8128#16 = .error .group8 ∧
  decode 0x9121#16 = .error .group9 ∧ decode 0xE19F#16 = .error .groupE ∧ decode 0xF175#16 = .error .groupF

/-- Decoding the word of a well-formed instruction gives that instruction back, with every operand at every value: no bit of an
encoding is dropped (R91, R92, R95). -/
def Obligations.DecodeOfEncodeIsIdentity : Prop :=
  ∀ i : Instr, i.wellFormed = true → decode (encode i) = .ok i

/-- The other direction: a recognized word is the word of the instruction it decodes to, so each word has one meaning (R94). -/
def Obligations.EncodeOfDecodeIsIdentity : Prop :=
  ∀ (w : Opcode) (i : Instr), decode w = .ok i → encode i = w ∧ i.wellFormed = true

/-- The unrecognized encodings are exactly the six sets of R96, each rejected under its own name, and every other word is
recognized (D2, D3: the strictness is the spec's choice). -/
def Obligations.UnrecognizedEncodingsAreTheSixSets : Prop :=
  ∀ w : Opcode, (∀ g : Unrecognized, decode w = .error g ↔ g.has w = true) ∧
    (opcodeWellFormed w = true ↔ ∃ i, decode w = .ok i)

/-! ### The step -/

/-- When the bytes at `PC` decode to a well-formed instruction and the boundary lets it run, the step is `exec` of it, with what
the step adds around it stated: the ticks of the boundary, the end of the last `WAIT_NOTIFY` pulse, the model's own schedule,
and the `PC` advance (R24, R101, R239). -/
def Obligations.StepRunsDecodedInstruction : Prop :=
  ∀ (s : State) (i : Instr), s.runsNext → i.wellFormed = true →
    decodeBytes (s.memRead s.pc) (s.memRead (s.pc + 1#12)) = .ok i →
    step s = exec i
      { s with
        pc := s.pc + 2#12
        dt := countDownBy (Config.ticksAt s.boundary) s.dt
        st := countDownBy (Config.ticksAt s.boundary) s.st
        waitNotify := false
        inbox := s.inbox.tail
        boundary := s.boundary + 1 }

/-- An unrecognized encoding takes the fault `UnsupportedInstruction`: `PC` is advanced, the cause and the raw opcode are recorded,
the run ends in `TerminatedError` with its notification, and nothing else is written (R221); the host reads the code 1 and the
opcode (R35). The list of writes and the code are D15, the spec's choices (notes/assumptions/28.md). The fields beside are the
boundary's (the ticks, the pulse, the model's schedule). -/
def Obligations.UnrecognizedOpcodeTakesFault : Prop :=
  ∀ (s : State) (g : Unrecognized), s.runsNext →
    decodeBytes (s.memRead s.pc) (s.memRead (s.pc + 1#12)) = .error g →
    ∃ t, step s = .next t ∧
      t = { s with
        pc := s.pc + 2#12
        faultCause := .unsupportedInstruction
        faultInfo := opcodeOfBytes (s.memRead s.pc) (s.memRead (s.pc + 1#12))
        runState := .terminatedError
        endNotified := true
        dt := countDownBy (Config.ticksAt s.boundary) s.dt
        st := countDownBy (Config.ticksAt s.boundary) s.st
        waitNotify := false
        inbox := s.inbox.tail
        boundary := s.boundary + 1 } ∧
      ReadsFault t 1#2 (opcodeOfBytes (s.memRead s.pc) (s.memRead (s.pc + 1#12)))

/-- The fetch is big-endian and wraps: the byte at `PC` is the high one, the byte at `(PC + 1) & 0xFFF` the low one (R90, R64: the
order is the spec's choice D4; R25, R76). -/
def Obligations.FetchIsBigEndianAndWraps : Prop :=
  ∀ s : State,
    s.fetch.toNat = (s.memRead s.pc).toNat * 256 + (s.memRead (BitVec.ofNat 12 ((s.pc.toNat + 1) % 4096))).toNat

/-- A store is seen by the next fetch with no intervening action (R74, R77, R71: the spec marks R74 as derived). -/
def Obligations.StoreIsSeenByNextFetch : Prop :=
  ∀ (s : State) (w : Opcode), ((s.memWrite s.pc (opcodeHi w)).memWrite (s.pc + 1#12) (opcodeLo w)).fetch = w

/-! ### Load, arithmetic, logic, shift, random -/

/-- `LD Vx, byte` and `LD Vx, Vy` (R140, R142): encoding, result, frame. -/
def Obligations.LoadByteAndCopyRegister : Prop :=
  ∀ (s : State) (x y : Reg) (kk : Byte),
    decode (0x6#4 ++ x ++ kk) = .ok (.ldByte x kk) ∧
    (∃ t, exec (.ldByte x kk) s = .next t ∧ t.getV x = kk ∧ OnlyRegs [x] s t) ∧
    decode (0x8#4 ++ x ++ y ++ 0x0#4) = .ok (.ldReg x y) ∧
    (∃ t, exec (.ldReg x y) s = .next t ∧ t.getV x = s.getV y ∧ OnlyRegs [x] s t)

/-- `ADD Vx, byte` (R141): the sum modulo 256 and no flag: VF changes only as the destination. -/
def Obligations.AddImmediateHasNoFlag : Prop :=
  ∀ (s : State) (x : Reg) (kk : Byte),
    decode (0x7#4 ++ x ++ kk) = .ok (.addByte x kk) ∧
    ∃ t, exec (.addByte x kk) s = .next t ∧ (t.getV x).toNat = ((s.getV x).toNat + kk.toNat) % 256 ∧ OnlyRegs [x] s t

/-- `OR`, `AND`, `XOR` (R143 to R145): bit by bit, and VF is left unchanged unless it is the destination (D12, the spec's choice;
notes/assumptions/27.md). -/
def Obligations.LogicIsBitwiseAndLeavesVf : Prop :=
  ∀ (s : State) (x y : Reg),
    (∃ t, exec (.orReg x y) s = .next t ∧ OnlyRegs [x] s t ∧
      ∀ k, (t.getV x).getLsbD k = ((s.getV x).getLsbD k || (s.getV y).getLsbD k)) ∧
    (∃ t, exec (.andReg x y) s = .next t ∧ OnlyRegs [x] s t ∧
      ∀ k, (t.getV x).getLsbD k = ((s.getV x).getLsbD k && (s.getV y).getLsbD k)) ∧
    (∃ t, exec (.xorReg x y) s = .next t ∧ OnlyRegs [x] s t ∧
      ∀ k, (t.getV x).getLsbD k = ((s.getV x).getLsbD k ^^ (s.getV y).getLsbD k))

/-- `ADD Vx, Vy` (R146): VF is 1 iff the sum exceeds 255, written after the result, so with x = 15 VF ends as the flag; otherwise
`V[x]` is the sum modulo 256. -/
def Obligations.AddRegistersSetsCarry : Prop :=
  ∀ (s : State) (x y : Reg),
    decode (0x8#4 ++ x ++ y ++ 0x4#4) = .ok (.addReg x y) ∧
    ∃ t, exec (.addReg x y) s = .next t ∧
      (t.getV vf).toNat = (if 255 < (s.getV x).toNat + (s.getV y).toNat then 1 else 0) ∧
      (x ≠ vf → (t.getV x).toNat = ((s.getV x).toNat + (s.getV y).toNat) % 256) ∧
      OnlyRegs [x, vf] s t

/-- `SUB Vx, Vy` and `SUBN Vx, Vy` (R147, R149): VF is 1 iff no borrow, written after the result; the difference is modulo 256. -/
def Obligations.SubtractSetsNotBorrow : Prop :=
  ∀ (s : State) (x y : Reg),
    decode (0x8#4 ++ x ++ y ++ 0x5#4) = .ok (.sub x y) ∧
    (∃ t, exec (.sub x y) s = .next t ∧
      (t.getV vf).toNat = (if (s.getV y).toNat ≤ (s.getV x).toNat then 1 else 0) ∧
      (x ≠ vf → ((t.getV x).toNat : Int) = ((s.getV x).toNat - (s.getV y).toNat : Int) % 256) ∧
      OnlyRegs [x, vf] s t) ∧
    decode (0x8#4 ++ x ++ y ++ 0x7#4) = .ok (.subn x y) ∧
    (∃ t, exec (.subn x y) s = .next t ∧
      (t.getV vf).toNat = (if (s.getV x).toNat ≤ (s.getV y).toNat then 1 else 0) ∧
      (x ≠ vf → ((t.getV x).toNat : Int) = ((s.getV y).toNat - (s.getV x).toNat : Int) % 256) ∧
      OnlyRegs [x, vf] s t)

/-- `SHR Vx` and `SHL Vx` (R148, R150): one place, in place, VF is the bit shifted out, written after the result; `V[y]` has no
part in it (D5, the spec's choice; notes/assumptions/21.md). -/
def Obligations.ShiftSetsBitShiftedOut : Prop :=
  ∀ (s : State) (x y : Reg),
    (∃ t, exec (.shr x y) s = .next t ∧ (t.getV vf).toNat = (s.getV x).toNat % 2 ∧
      (x ≠ vf → (t.getV x).toNat = (s.getV x).toNat / 2) ∧ OnlyRegs [x, vf] s t) ∧
    (∃ t, exec (.shl x y) s = .next t ∧ (t.getV vf).toNat = (s.getV x).toNat / 128 ∧
      (x ≠ vf → (t.getV x).toNat = (s.getV x).toNat * 2 % 256) ∧ OnlyRegs [x, vf] s t)

/-- `RND Vx, byte` (R151): a free byte and with `kk`, so every bit that is 0 in `kk` is 0 in the result; the next draw is another
free byte. The free byte is the model's constant with no body (D21; notes/assumptions/3.md). -/
def Obligations.RandomByteIsMasked : Prop :=
  ∀ (s : State) (x : Reg) (kk : Byte),
    ∃ t, exec (.rnd x kk) s = .next t ∧ t.getV x = Config.randomByte s.draws &&& kk ∧ t.getV x &&& ~~~kk = 0#8 ∧
      SameRegsBut [x] s t ∧ SameMemory s t ∧ t = { s with v := t.v, draws := s.draws + 1 }

/-- The same register as source and destination (R153, which the spec marks as derived): OR and AND change nothing, XOR gives 0, ADD
doubles with VF the old bit 7, SUB and SUBN give 0 with VF 1. -/
def Obligations.SameRegisterAsBothOperands : Prop :=
  ∀ (s : State) (x : Reg),
    exec (.ldReg x x) s = .next s ∧ exec (.orReg x x) s = .next s ∧ exec (.andReg x x) s = .next s ∧
    (∃ t, exec (.xorReg x x) s = .next t ∧ t.getV x = 0#8) ∧
    (∃ t, exec (.addReg x x) s = .next t ∧ (t.getV vf).toNat = (s.getV x).toNat / 128 ∧
      (x ≠ vf → (t.getV x).toNat = 2 * (s.getV x).toNat % 256)) ∧
    (∃ t, exec (.sub x x) s = .next t ∧ t.getV vf = 1#8 ∧ (x ≠ vf → t.getV x = 0#8)) ∧
    (∃ t, exec (.subn x x) s = .next t ∧ t.getV vf = 1#8 ∧ (x ≠ vf → t.getV x = 0#8))

/-! ### Control transfer -/

/-- `JP addr` (R121): `PC <- nnn`, any address, nothing else. -/
def Obligations.JumpSetsPc : Prop :=
  ∀ (s : State) (nnn : Addr),
    decode (0x1#4 ++ nnn) = .ok (.jp nnn) ∧ ∃ t, exec (.jp nnn) s = .next t ∧ t.pc = nnn ∧ OnlyPc s t

/-- `JP V0, addr` (R127): `PC <- (nnn + V0) mod 4096` (D7, D18, the spec's choices; notes/assumptions/23.md). -/
def Obligations.IndexedJumpWraps : Prop :=
  ∀ (s : State) (nnn : Addr),
    ∃ t, exec (.jpV0 nnn) s = .next t ∧ t.pc.toNat = (nnn.toNat + (s.getV 0#4).toNat) % 4096 ∧ OnlyPc s t

/-- `CALL addr` (R122, R27): with room on the stack the advanced `PC` is pushed and `PC` is `nnn`; with 16 entries in use the fault
`StackOverflow` is taken with the opcode, the host reads the code 3, and nothing else changes (R223; the capacity is the spec's
choice D1, notes/assumptions/18.md, the code and the list of writes its choice D15, notes/assumptions/28.md). -/
def Obligations.CallPushesOrOverflows : Prop :=
  ∀ (s : State) (nnn : Addr),
    (∀ h : s.sp.val < 16,
      ∃ t, exec (.call nnn) s = .next t ∧ t.sp.val = s.sp.val + 1 ∧ t.pc = nnn ∧
        t.stack = s.stack.set s.sp.val s.pc h ∧ SameRegsBut [] s t ∧ SameMemory s t ∧
        t = { s with sp := t.sp, stack := t.stack, pc := t.pc }) ∧
    (s.sp.val = 16 →
      ∃ t, exec (.call nnn) s = .next t ∧
        t = { s with
          faultCause := .stackOverflow, faultInfo := 0x2#4 ++ nnn, runState := .terminatedError, endNotified := true } ∧
        ReadsFault t 3#2 (0x2#4 ++ nnn))

/-- `RET` (R120): with entries in use `PC` is the top one and `SP` is one less, nothing erased; with none the fault `StackUnderflow`
is taken with the opcode 0x00EE, the host reads the code 2, and nothing else changes (the code and the list of writes are D15, the
spec's choices; notes/assumptions/28.md). -/
def Obligations.ReturnPopsOrUnderflows : Prop :=
  ∀ s : State,
    decode 0x00EE#16 = .ok .ret ∧
    (∀ h : 0 < s.sp.val,
      ∃ t, exec .ret s = .next t ∧ t.sp.val + 1 = s.sp.val ∧
        t.pc = s.stack[s.sp.val - 1]'(Nat.lt_of_lt_of_le (Nat.sub_lt h Nat.one_pos) (Nat.le_of_lt_succ s.sp.isLt)) ∧
        SameRegsBut [] s t ∧ SameMemory s t ∧ t = { s with sp := t.sp, pc := t.pc }) ∧
    (s.sp.val = 0 →
      ∃ t, exec .ret s = .next t ∧
        t = { s with
          faultCause := .stackUnderflow, faultInfo := 0x00EE#16, runState := .terminatedError, endNotified := true } ∧
        ReadsFault t 2#2 0x00EE#16)

/-- A call and the return from it (R120, R122): execution goes on after the call, with the stack pointer as before. -/
def Obligations.ReturnUndoesCall : Prop :=
  ∀ (s : State) (nnn : Addr), s.sp.val < 16 →
    ∃ t u, exec (.call nnn) s = .next t ∧ exec .ret t = .next u ∧ u.pc = s.pc ∧ u.sp = s.sp ∧
      SameRegsBut [] s u ∧ SameMemory s u ∧ u = { s with stack := u.stack }

/-- `SE Vx, byte` and `SNE Vx, byte` (R123, R124): two bytes more when the condition holds, nothing else ever. -/
def Obligations.SkipOnByte : Prop :=
  ∀ (s : State) (x : Reg) (kk : Byte),
    decode (0x3#4 ++ x ++ kk) = .ok (.seByte x kk) ∧
    (∃ t, exec (.seByte x kk) s = .next t ∧ OnlyPc s t ∧
      t.pc.toNat = if s.getV x = kk then (s.pc.toNat + 2) % 4096 else s.pc.toNat) ∧
    decode (0x4#4 ++ x ++ kk) = .ok (.sneByte x kk) ∧
    (∃ t, exec (.sneByte x kk) s = .next t ∧ OnlyPc s t ∧
      t.pc.toNat = if s.getV x ≠ kk then (s.pc.toNat + 2) % 4096 else s.pc.toNat)

/-- `SE Vx, Vy` and `SNE Vx, Vy` (R125, R126). -/
def Obligations.SkipOnRegisters : Prop :=
  ∀ (s : State) (x y : Reg),
    decode (0x5#4 ++ x ++ y ++ 0x0#4) = .ok (.seReg x y) ∧
    (∃ t, exec (.seReg x y) s = .next t ∧ OnlyPc s t ∧
      t.pc.toNat = if s.getV x = s.getV y then (s.pc.toNat + 2) % 4096 else s.pc.toNat) ∧
    decode (0x9#4 ++ x ++ y ++ 0x0#4) = .ok (.sneReg x y) ∧
    (∃ t, exec (.sneReg x y) s = .next t ∧ OnlyPc s t ∧
      t.pc.toNat = if s.getV x ≠ s.getV y then (s.pc.toNat + 2) % 4096 else s.pc.toNat)

/-! ### Keys and timers -/

/-- `SKP Vx` and `SKNP Vx` (R180, R181): the key with code `V[x]` is pressed when the latch holds a host code that the map gives that
code, compared at the full 8 bits (D9, the spec's choice; notes/assumptions/24.md); the one skips exactly when the other does not. -/
def Obligations.SkipOnKey : Prop :=
  ∀ (s : State) (x : Reg),
    (∃ t, exec (.skp x) s = .next t ∧ OnlyPc s t ∧
      ((∃ h c, s.key = some h ∧ keyMap s.params h = some c ∧ c.toNat = (s.getV x).toNat) → t.pc = s.pc + 2#12) ∧
      (¬ (∃ h c, s.key = some h ∧ keyMap s.params h = some c ∧ c.toNat = (s.getV x).toNat) → t.pc = s.pc)) ∧
    (∃ t, exec (.sknp x) s = .next t ∧ OnlyPc s t ∧
      ((∃ h c, s.key = some h ∧ keyMap s.params h = some c ∧ c.toNat = (s.getV x).toNat) → t.pc = s.pc) ∧
      (¬ (∃ h c, s.key = some h ∧ keyMap s.params h = some c ∧ c.toNat = (s.getV x).toNat) → t.pc = s.pc + 2#12))

/-- `KeyMap` (R186): raw passthrough gives codes up to 15; otherwise the least code whose table entry is the host code, and none when
there is none (D22, the spec's choices; notes/assumptions/16.md). The default table sends the sixteen host codes to 0..15 in order. -/
def Obligations.KeyMapIsLeastTableEntry : Prop :=
  (∀ (p : Params) (h : Nat),
    (p.keymapRaw = true → keyMap p h = if h ≤ 15 then some (BitVec.ofNat 4 h) else none) ∧
    (p.keymapRaw = false →
      (∀ c : BitVec 4, keyMap p h = some c ↔
        p.keymapTable[c.toNat]'c.isLt = h ∧ ∀ d : BitVec 4, d < c → p.keymapTable[d.toNat]'d.isLt ≠ h) ∧
      (keyMap p h = none ↔ ∀ c : BitVec 4, p.keymapTable[c.toNat]'c.isLt ≠ h))) ∧
  ([48, 49, 50, 51, 52, 53, 54, 55, 56, 57, 113, 119, 101, 114, 116, 121].map (keyMap defaultParams) =
    (List.range 16).map fun c => some (BitVec.ofNat 4 c))

/-- `LD Vx, K` (R183): a matching key in the latch gives its code at once and the latch is kept; with none, the CORE waits for
register x and emits `WAIT_NOTIFY` (D8, the spec's choice; notes/assumptions/24.md). -/
def Obligations.KeyLoadTakesKeyOrWaits : Prop :=
  ∀ (s : State) (x : Reg),
    (∀ h c, s.key = some h → keyMap s.params h = some c →
      ∃ t, exec (.ldVxK x) s = .next t ∧ (t.getV x).toNat = c.toNat ∧ OnlyRegs [x] s t) ∧
    ((∀ h, s.key = some h → keyMap s.params h = none) →
      exec (.ldVxK x) s = .next { s with waitReg := x, runState := .waitingForKey, waitNotify := true })

/-- The key-wake step (R187): while the CORE waits, a matching key written by the host loads the waiting register and resumes
`Running`; a host code that matches nothing, or none, changes `KEY` alone. What the register receives is the spec's from general
knowledge (G7, D8). -/
def Obligations.KeyDeliveryWakesExactlyMatching : Prop :=
  ∀ (s : State) (h : Nat), s.runState = .waitingForKey →
    (∀ c, keyMap s.params h = some c →
      ∃ t, hostAct (.setKey (some h)) s = .next t ∧ (t.getV s.waitReg).toNat = c.toNat ∧ t.runState = .running ∧
        t.key = some h ∧ SameRegsBut [s.waitReg] s t ∧ SameMemory s t ∧
        t = { s with v := t.v, key := t.key, runState := t.runState }) ∧
    (keyMap s.params h = none → hostAct (.setKey (some h)) s = .next { s with key := some h }) ∧
    hostAct (.setKey none) s = .next { s with key := none }

/-- `LD Vx, DT`, `LD DT, Vx`, `LD ST, Vx` (R182, R184, R185). -/
def Obligations.TimerReadsAndWrites : Prop :=
  ∀ (s : State) (x : Reg),
    decode (0xF#4 ++ x ++ 0x07#8) = .ok (.ldVxDt x) ∧
    (∃ t, exec (.ldVxDt x) s = .next t ∧ t.getV x = s.dt ∧ OnlyRegs [x] s t) ∧
    decode (0xF#4 ++ x ++ 0x15#8) = .ok (.ldDtVx x) ∧
    (∃ t, exec (.ldDtVx x) s = .next t ∧ t.dt = s.getV x ∧ SameRegsBut [] s t ∧ SameMemory s t ∧ t = { s with dt := t.dt }) ∧
    decode (0xF#4 ++ x ++ 0x18#8) = .ok (.ldStVx x) ∧
    (∃ t, exec (.ldStVx x) s = .next t ∧ t.st = s.getV x ∧ SameRegsBut [] s t ∧ SameMemory s t ∧ t = { s with st := t.st })

/-- One tick (R238): both counters go down by one, each clamped at 0 whatever the other holds, and nothing else changes. -/
def Obligations.TickClampsAtZero : Prop :=
  ∀ s : State,
    s.tick.dt.toNat = (if 0 < s.dt.toNat then s.dt.toNat - 1 else 0) ∧
    s.tick.st.toNat = (if 0 < s.st.toNat then s.st.toNat - 1 else 0) ∧
    SameRegsBut [] s s.tick ∧ SameMemory s s.tick ∧ s.tick = { s with dt := s.tick.dt, st := s.tick.st }

/-- The ticks of a step boundary (R239): in an active state a free number of them, in a terminal state none; nothing but the two
counters changes. The number is the model's constant with no body (D14; notes/assumptions/2.md). -/
def Obligations.BoundaryTicksAreFree : Prop :=
  ∀ s : State,
    (s.runState.active = true →
      s.timerAgent.dt.toNat = s.dt.toNat - Config.ticksAt s.boundary ∧
      s.timerAgent.st.toNat = s.st.toNat - Config.ticksAt s.boundary) ∧
    (s.ended → s.timerAgent.dt = s.dt ∧ s.timerAgent.st = s.st) ∧
    (∀ n, s.ticks (n + 1) = (s.ticks n).tick) ∧
    s.timerAgent = { s with dt := s.timerAgent.dt, st := s.timerAgent.st, boundary := s.boundary + 1 }

/-! ### The address register and memory -/

/-- `LD I, addr`, `ADD I, Vx`, `LD F, Vx` (R200 to R202): the literal; the sum modulo 4096 with VF untouched (D12); five times the
full 8 bits (D10). The two decisions are the spec's choices (notes/assumptions/25.md, notes/assumptions/27.md). -/
def Obligations.AddressRegisterWrites : Prop :=
  ∀ (s : State) (x : Reg) (nnn : Addr),
    (∃ t, exec (.ldI nnn) s = .next t ∧ t.i = nnn ∧ SameRegsBut [] s t ∧ SameMemory s t ∧ t = { s with i := t.i }) ∧
    (∃ t, exec (.addI x) s = .next t ∧ t.i.toNat = (s.i.toNat + (s.getV x).toNat) % 4096 ∧
      SameRegsBut [] s t ∧ SameMemory s t ∧ t = { s with i := t.i }) ∧
    (∃ t, exec (.ldF x) s = .next t ∧ t.i.toNat = (s.getV x).toNat * 5 ∧
      SameRegsBut [] s t ∧ SameMemory s t ∧ t = { s with i := t.i })

/-- `LD B, Vx` (R203): the hundreds at `I`, the tens at `I + 1`, the ones at `I + 2`, each address masked separately; nothing else. -/
def Obligations.DecimalDigitsStored : Prop :=
  ∀ (s : State) (x : Reg),
    decode (0xF#4 ++ x ++ 0x33#8) = .ok (.ldB x) ∧
    ∃ t, exec (.ldB x) s = .next t ∧
      (t.memRead s.i).toNat = (s.getV x).toNat / 100 ∧
      (t.memRead (BitVec.ofNat 12 ((s.i.toNat + 1) % 4096))).toNat = (s.getV x).toNat / 10 % 10 ∧
      (t.memRead (BitVec.ofNat 12 ((s.i.toNat + 2) % 4096))).toNat = (s.getV x).toNat % 10 ∧
      OnlyMemory 3 s t

/-- `LD [I], Vx` (R204): V0 to Vx inclusive go to `(I + k) & 0xFFF`; every other byte and every register is unchanged, `I` too (D6,
the spec's choice; notes/assumptions/22.md). -/
def Obligations.RegistersStored : Prop :=
  ∀ (s : State) (x : Reg),
    ∃ t, exec (.ldMemVx x) s = .next t ∧
      (∀ k : Reg, k ≤ x → t.memRead (BitVec.ofNat 12 ((s.i.toNat + k.toNat) % 4096)) = s.getV k) ∧
      OnlyMemory (x.toNat + 1) s t

/-- `LD Vx, [I]` (R205): V0 to Vx inclusive come from `(I + k) & 0xFFF`; every other register and all of memory is unchanged, `I` too
(D6, the spec's choice; notes/assumptions/22.md). -/
def Obligations.RegistersLoaded : Prop :=
  ∀ (s : State) (x : Reg),
    ∃ t, exec (.ldVxMem x) s = .next t ∧
      (∀ k : Reg, k ≤ x → t.getV k = s.memRead (BitVec.ofNat 12 ((s.i.toNat + k.toNat) % 4096))) ∧
      (∀ r : Reg, x < r → t.getV r = s.getV r) ∧ SameMemory s t ∧ t = { s with v := t.v }

/-- What `LD [I], Vx` stored, `LD Vx, [I]` loads back (R204, R205, R67), whatever the registers held in between. -/
def Obligations.LoadUndoesStore : Prop :=
  ∀ (s u : State) (x : Reg), u.i = s.i →
    ∃ t, exec (.ldMemVx x) s = .next t ∧
      (u.mem = t.mem → ∃ w, exec (.ldVxMem x) u = .next w ∧ ∀ k : Reg, k ≤ x → w.getV k = s.getV k)

/-! ### The pixel buffer -/

/-- `CLS` (R170): every entry is 0; nothing else changes, VF included (D12, the spec's choice; notes/assumptions/27.md). -/
def Obligations.ClearScreenClearsAllPixels : Prop :=
  ∀ s : State,
    ∃ t, exec .cls s = .next t ∧ (∀ k, t.pixel k = false) ∧ SameRegsBut [] s t ∧ SameMemory s t ∧ t = { s with pb := t.pb }

/-- `DRW Vx, Vy, n` (R171) in closed form: exactly the entries under a 1 bit of the sprite are flipped, and VF is 1 iff one of them
was 1; the operands are read before VF is cleared and the origin is not reduced first (D11, the spec's choices;
notes/assumptions/26.md). Nothing else changes. -/
def Obligations.DrawFlipsSpritePixels : Prop :=
  ∀ (s : State) (x y : Reg) (n : Nibble),
    ∃ t, exec (.drw x y n) s = .next t ∧
      (∀ k, k < 2048 → s.underSprite x y n k → t.pixel k = !s.pixel k) ∧
      (∀ k, k < 2048 → ¬ s.underSprite x y n k → t.pixel k = s.pixel k) ∧
      ((∃ k, k < 2048 ∧ s.underSprite x y n k ∧ s.pixel k = true) → t.getV vf = 1#8) ∧
      ((∀ k, k < 2048 → s.underSprite x y n k → s.pixel k = false) → t.getV vf = 0#8) ∧
      SameRegsBut [vf] s t ∧ SameMemory s t ∧ t = { s with v := t.v, pb := t.pb }

/-- Drawing twice (R172, which the spec marks as derived in part): the same draw again restores the pixel buffer, and the second one
reports a collision iff some entry of the sprite was 0 before the first. The two draws must not name VF. -/
def Obligations.DrawTwiceRestores : Prop :=
  ∀ (s : State) (x y : Reg) (n : Nibble), x ≠ vf → y ≠ vf →
    ∃ t u, exec (.drw x y n) s = .next t ∧ exec (.drw x y n) t = .next u ∧ u.pb = s.pb ∧
      ((∃ k, k < 2048 ∧ s.underSprite x y n k ∧ s.pixel k = false) → u.getV vf = 1#8) ∧
      ((∀ k, k < 2048 → s.underSprite x y n k → s.pixel k = true) → u.getV vf = 0#8)

/-! ### Rules of the whole instruction set -/

/-- Every instruction completes in a next state, whatever the state: none is refused, none stops the machine (R220: no other
instruction and no memory access can fault; the stack faults are next states, R224). -/
def Obligations.EveryInstructionAnswersNextState : Prop :=
  ∀ (i : Instr) (s : State), ∃ t, exec i s = .next t

/-- Nothing but `CLS` and `DRW` writes the pixel buffer (R173, which the spec marks as derived). -/
def Obligations.OnlyClsAndDrwWritePixels : Prop :=
  ∀ (i : Instr) (s t : State), exec i s = .next t → t.pb ≠ s.pb → i = .cls ∨ ∃ x y n, i = .drw x y n

/-- Nothing but `LD B, Vx` and `LD [I], Vx` writes memory (R60, R39). -/
def Obligations.OnlyTwoInstructionsStore : Prop :=
  ∀ (i : Instr) (s t : State) (a : Addr), exec i s = .next t → t.memRead a ≠ s.memRead a →
    (∃ x, i = .ldB x) ∨ ∃ x, i = .ldMemVx x

/-- Nothing but the eight control-transfer instructions and the two key skips (R180, R181) changes the advanced `PC` (R128, which
the spec marks as derived and whose list of eight leaves the two key skips out: notes/assumptions/38.md). -/
def Obligations.OnlyControlTransfersChangePc : Prop :=
  ∀ (i : Instr) (s t : State), exec i s = .next t → t.pc ≠ s.pc →
    i = .ret ∨ (∃ a, i = .jp a) ∨ (∃ a, i = .call a) ∨ (∃ x k, i = .seByte x k) ∨ (∃ x k, i = .sneByte x k) ∨
    (∃ x y, i = .seReg x y) ∨ (∃ x y, i = .sneReg x y) ∨ (∃ a, i = .jpV0 a) ∨ (∃ x, i = .skp x) ∨ ∃ x, i = .sknp x

/-- The call stack is reached only by `CALL` (one entry more) and `RET` (one less) (R26). -/
def Obligations.OnlyCallAndRetReachStack : Prop :=
  ∀ (i : Instr) (s t : State), exec i s = .next t →
    (t.sp.val = s.sp.val + 1 → ∃ a, i = .call a) ∧ (t.sp.val + 1 = s.sp.val → i = .ret) ∧
    (t.sp.val = s.sp.val ∨ t.sp.val = s.sp.val + 1 ∨ t.sp.val + 1 = s.sp.val) ∧ (t.stack ≠ s.stack → ∃ a, i = .call a)

/-- `I` is written by `LD I`, `ADD I` and `LD F` only, `DT` by `LD DT, Vx` only, `ST` by `LD ST, Vx` only among instructions (R22, R28,
R29). -/
def Obligations.WritersOfAddressRegisterAndTimers : Prop :=
  ∀ (i : Instr) (s t : State), exec i s = .next t →
    (t.i ≠ s.i → (∃ a, i = .ldI a) ∨ (∃ x, i = .addI x) ∨ ∃ x, i = .ldF x) ∧
    (t.dt ≠ s.dt → ∃ x, i = .ldDtVx x) ∧ (t.st ≠ s.st → ∃ x, i = .ldStVx x)

/-- The registers an instruction may write (R20, R21): its destination; VF beside it for the five flag writers of the ALU; VF
alone for the sixth, `DRW`; V0 to Vx for the bulk load. Every other register keeps its value, VF included (D12, the spec's choice:
the list of flag writers in R21, which names six and calls them seven, is exhaustive; notes/assumptions/27.md). -/
def Obligations.OnlyDestinationsAndFlagChange : Prop :=
  ∀ (i : Instr) (s t : State) (r : Reg), exec i s = .next t → t.getV r ≠ s.getV r →
    match i with
    | .ldByte x _ | .addByte x _ | .ldReg x _ | .orReg x _ | .andReg x _ | .xorReg x _ | .rnd x _ | .ldVxDt x | .ldVxK x => r = x
    | .addReg x _ | .sub x _ | .shr x _ | .subn x _ | .shl x _ => r = x ∨ r = vf
    | .drw _ _ _ => r = vf
    | .ldVxMem x => r ≤ x
    | _ => False

/-- A program cannot reach the run-control registers (R102, R31, R36, R37, R42): no instruction changes `KEY`, `PAUSE`, `CANCEL`, the
rates, `PROG_END`, the configuration or the schedule; `RUNSTATE` and the records change only by the two stack faults and by a wait
of `LD Vx, K`, each only under its condition (an empty stack, a full stack, no matching key in the latch), and under its
condition each does happen. What fault entry writes is D15, what a matching key is D8, both the spec's choices
(notes/assumptions/28.md, notes/assumptions/24.md). -/
def Obligations.ProgramCannotReachRunControl : Prop :=
  ∀ (i : Instr) (s t : State), exec i s = .next t →
    (t.key = s.key ∧ t.pause = s.pause ∧ t.cancel = s.cancel ∧ t.clockRate = s.clockRate ∧ t.timerRate = s.timerRate ∧
      t.progEnd = s.progEnd ∧ t.params = s.params ∧ t.inbox = s.inbox ∧ t.boundary = s.boundary) ∧
    ((t.runState ≠ s.runState ∨ t.waitReg ≠ s.waitReg ∨ t.waitNotify ≠ s.waitNotify ∨ t.faultCause ≠ s.faultCause ∨
        t.faultInfo ≠ s.faultInfo ∨ t.endNotified ≠ s.endNotified) →
      (i = .ret ∧ s.sp.val = 0 ∧ t.faultCause = .stackUnderflow ∧ t.runState = .terminatedError) ∨
      (∃ a, i = .call a ∧ s.sp.val = 16 ∧ t.faultCause = .stackOverflow ∧ t.runState = .terminatedError) ∨
      (∃ x, i = .ldVxK x ∧ (∀ h, s.key = some h → keyMap s.params h = none) ∧ t.waitReg = x ∧
        t.faultCause = s.faultCause ∧ t.runState = .waitingForKey)) ∧
    (i = .ret → s.sp.val = 0 → t.faultCause = .stackUnderflow ∧ t.runState = .terminatedError ∧ t.endNotified = true) ∧
    (∀ a, i = .call a → s.sp.val = 16 →
      t.faultCause = .stackOverflow ∧ t.runState = .terminatedError ∧ t.endNotified = true) ∧
    (∀ x, i = .ldVxK x → (∀ h, s.key = some h → keyMap s.params h = none) →
      t.waitReg = x ∧ t.runState = .waitingForKey ∧ t.waitNotify = true)

/-! ### Run control -/

/-- The order of a step boundary (R230, the spec's choice D16; notes/assumptions/29.md), with the host quiet: terminal, cancel, pause,
resume, hold, wait, end of program, instruction step (R232, R234, R244). That a resume and what follows it are one step is the
model's choice (notes/assumptions/12.md), and so are the ticks before the checks (notes/assumptions/13.md). -/
def Obligations.BoundaryChecksInOrder : Prop :=
  ∀ s : State, s.hostQuiet →
    step s =
      if s.ended then .next s.atBoundary
      else if s.cancel = true then .next { s.atBoundary with runState := .cancelled, endNotified := true }
      else if s.runState = .waitingForKey then .next s.atBoundary
      else if s.pause = true then .next { s.atBoundary with runState := .paused }
      else if s.progEnd.toNat ≤ s.pc.toNat then .next { s.atBoundary with runState := .terminatedNormal, endNotified := true }
      else instructionStep { s.atBoundary with runState := .running }

/-- A cancellation (R233): arriving at a boundary in any active state it ends the run at that boundary, with the one notification and
no fault; a waiting `LD Vx, K` is abandoned without writing its register. Nothing else changes but the ticks of the boundary. That
the request is seen at the boundary at which it arrives, the host before the CORE, is the model's choice
(notes/assumptions/13.md, and notes/assumptions/31.md for D29, D31): R70 (e) allows that boundary or the next. -/
def Obligations.CancelEndsRunWithinOneStep : Prop :=
  ∀ s : State, s.runState.active = true → s.inbox.headD [] = [.cancel] →
    step s = .next { s.atBoundary with cancel := true, runState := .cancelled, endNotified := true } ∧
    s.atBoundary.v = s.v ∧ s.atBoundary.faultCause = s.faultCause ∧ s.atBoundary.pc = s.pc

/-- Pause and resume (R234): a pause arriving while `Running` stops before the next fetch with only `RUNSTATE` and the request
changed; a resume arriving while `Paused` runs on exactly as if the pause had not been; a pause arriving while
`WaitingForKey` leaves the wait (D30, the spec's choice; notes/assumptions/31.md). That a resume and the instruction after it are
one step, as if the pause had not been, is the model's choice (notes/assumptions/12.md, unsafe), and so is that a request is seen
at the boundary at which it arrives (notes/assumptions/13.md, notes/assumptions/31.md). -/
def Obligations.PauseStopsAndResumeContinues : Prop :=
  ∀ s : State, s.cancel = false →
    (s.runState = .running → s.inbox.headD [] = [.pause] →
      step s = .next { s.atBoundary with pause := true, runState := .paused }) ∧
    (s.runState = .paused → s.inbox.headD [] = [.resume] →
      step s = step { s with runState := .running, pause := false, inbox := [] :: s.inbox.tail }) ∧
    (s.runState = .waitingForKey → s.inbox.headD [] = [.pause] → step s = .next { s.atBoundary with pause := true })

/-- After the end of a run (R247, R226; which host writes are ignored is notes/assumptions/10.md): without a reset request no state of
the instance changes; only the model's own schedule moves on and the last pulse ends. -/
def Obligations.EndedRunDoesNotChange : Prop :=
  ∀ s : State, s.ended → s.noReset →
    step s = .next { s with waitNotify := false, inbox := s.inbox.tail, boundary := s.boundary + 1 }

/-- The transitions of `RUNSTATE` (R231, some rows of which the spec marks as derived): the complete list of what one evaluation of
a boundary does; and a host action other than reset makes no transition but the wake of a waiting CORE by a matching key. Each
row is one of R231 but the last clause of `Paused`: that a resume and what follows it are one evaluation, so that `Paused` can
end it in `WaitingForKey`, `TerminatedError` or `TerminatedNormal` by way of `Running`, is the model's choice
(notes/assumptions/12.md, unsafe). The order of the checks is D16, the spec's choice. -/
def Obligations.RunStateTransitionsAreTheListed : Prop :=
  (∀ s t : State, evaluateBoundary s = .next t →
    (s.ended → t.runState = s.runState) ∧
    (s.runState = .waitingForKey → t.runState = .waitingForKey ∨ (s.cancel = true ∧ t.runState = .cancelled)) ∧
    (s.runState = .running → t.runState = .running ∨ t.runState = .waitingForKey ∨ t.runState = .terminatedError ∨
      (s.pause = true ∧ t.runState = .paused) ∨ (s.progEnd.toNat ≤ s.pc.toNat ∧ t.runState = .terminatedNormal) ∨
      (s.cancel = true ∧ t.runState = .cancelled)) ∧
    (s.runState = .paused → (s.pause = true ∧ t.runState = .paused) ∨ (s.cancel = true ∧ t.runState = .cancelled) ∨
      (s.pause = false ∧ (t.runState = .running ∨ t.runState = .waitingForKey ∨ t.runState = .terminatedError ∨
        (s.progEnd.toNat ≤ s.pc.toNat ∧ t.runState = .terminatedNormal))))) ∧
  (∀ (a : HostAction) (s t : State), (∀ image, a ≠ .reset image) → hostAct a s = .next t → t.runState ≠ s.runState →
    s.runState = .waitingForKey ∧ t.runState = .running ∧ ∃ h c, a = .setKey (some h) ∧ keyMap s.params h = some c)

/-- Exactly one end-of-execution notification (R236): without a reset it is never withdrawn, and it is emitted by exactly the steps
that enter a terminal state; `WAIT_NOTIFY` pulses only at a step that ends in `WaitingForKey` after it left `Running`. -/
def Obligations.NotificationsAreEmittedOnce : Prop :=
  ∀ s t : State, s.Inv → s.noReset → step s = .next t →
    (s.endNotified = true → t.endNotified = true ∧ t.runState = s.runState) ∧
    (s.endNotified = false → (t.endNotified = true ↔ t.ended)) ∧
    (t.waitNotify = true → t.runState = .waitingForKey ∧ ∃ x, decode s.fetch = .ok (.ldVxK x) ∧ t.waitReg = x)

/-- The invariant of the machine holds at reset (R40; `PROG_END` there is notes/assumptions/7.md, and that the default timer rate
meets its open bounds is notes/assumptions/9.md). -/
def Obligations.ResetMeetsInvariant : Prop := State.reset.Inv

/-- Every step keeps the invariant, from every state that meets it, whatever the host does: memory stays in its canonical form, a
fault is recorded exactly in `TerminatedError`, the end notification exactly in the terminal states, `WAIT_NOTIFY` only in
`WaitingForKey`, `PROG_END` and the two rates stay in their ranges (R9, R34, R37, R224, R231, R236). `PROG_END` may be 0x200 for
no program (notes/assumptions/7.md), and the bounds of `TIMER_RATE` are open (notes/assumptions/9.md). -/
def Obligations.StepKeepsInvariant : Prop :=
  ∀ s t : State, s.Inv → step s = .next t → t.Inv

/-! ### The host, load and reset -/

/-- What the host may do and may not do (R245, R31, R36, R42): in an active state `set_key` writes `KEY`, in `Running` and `Paused`
nothing else, and `pause`, `resume` and `cancel` write their flag and nothing else; what the host reads is `PB` entry by entry, `ST`,
`RUNSTATE`, the fault record, the rates and the notifications. A host action other than reset always completes and changes neither `I`, `PC`, the stack,
the timers, memory, pixels, `PROG_END` nor the fault record; a register or `RUNSTATE` only as the wake of a waiting CORE by a
delivered matching key (D8, the spec's choice; notes/assumptions/24.md); `KEY`, the two request flags and the two rates only by
the action that is named after them. -/
def Obligations.HostActionsReachOnlyTheirFields : Prop :=
  (∀ (a : HostAction) (s : State), (∀ image, a ≠ .reset image) →
    ∃ t, hostAct a s = .next t ∧ SameMemory s t ∧
      (s.runState.active = true →
        (∀ k, a = .setKey k → t.key = k ∧ (s.runState ≠ .waitingForKey → t = { s with key := k })) ∧
        (a = .pause → t = { s with pause := true }) ∧ (a = .resume → t = { s with pause := false }) ∧
        (a = .cancel → t = { s with cancel := true })) ∧
      t = { s with
        v := t.v, key := t.key, runState := t.runState, pause := t.pause, cancel := t.cancel
        clockRate := t.clockRate, timerRate := t.timerRate } ∧
      (t.v ≠ s.v →
        s.runState = .waitingForKey ∧ SameRegsBut [s.waitReg] s t ∧
          ∃ h c, a = .setKey (some h) ∧ keyMap s.params h = some c ∧ (t.getV s.waitReg).toNat = c.toNat) ∧
      (t.runState ≠ s.runState →
        s.runState = .waitingForKey ∧ t.runState = .running ∧
          ∃ h c, a = .setKey (some h) ∧ keyMap s.params h = some c) ∧
      (t.key ≠ s.key → ∃ k, a = .setKey k ∧ t.key = k) ∧
      (t.pause ≠ s.pause → (a = .pause ∧ t.pause = true) ∨ (a = .resume ∧ t.pause = false)) ∧
      (t.cancel ≠ s.cancel → a = .cancel ∧ t.cancel = true) ∧
      (t.clockRate ≠ s.clockRate → a = .clockUp ∨ a = .clockDown) ∧
      (t.timerRate ≠ s.timerRate → a = .timerUp ∨ a = .timerDown)) ∧
  (∀ s : State,
    (hostView s).pixels.length = 2048 ∧ (∀ k, k < 2048 → (hostView s).pixels[k]? = some (s.pixel k)) ∧
    (hostView s).soundTimer = s.st ∧ (hostView s).runState = s.runState ∧ (hostView s).faultCause = faultCode s.faultCause ∧
    (hostView s).faultInfo = s.faultInfo ∧ (hostView s).clockRate = s.clockRate ∧ (hostView s).timerRate = s.timerRate ∧
    (hostView s).endNotified = s.endNotified ∧ (hostView s).waitNotify = s.waitNotify)

/-- Rate control (R240; D25, the spec's choice, for the one step both ways): from a legal `CLOCK_RATE` the two requests move by 100 and
clamp to 200 and 1000, and stay legal; `TIMER_RATE` moves by its open step, clamps to its open bounds and is inside them then
(R37; notes/assumptions/9.md). -/
def Obligations.RateRequestsClamp : Prop :=
  ∀ s : State, s.runState.active = true → clockLegal s.clockRate →
    (∃ t, hostAct .clockUp s = .next t ∧ clockLegal t.clockRate ∧
      t.clockRate = (if s.clockRate = 1000 then 1000 else s.clockRate + 100) ∧ t = { s with clockRate := t.clockRate }) ∧
    (∃ t, hostAct .clockDown s = .next t ∧ clockLegal t.clockRate ∧
      t.clockRate = (if s.clockRate = 200 then 200 else s.clockRate - 100) ∧ t = { s with clockRate := t.clockRate }) ∧
    (∃ t, hostAct .timerUp s = .next t ∧ timerLegal t.timerRate ∧ t = { s with timerRate := t.timerRate } ∧
      t.timerRate = max Config.timerRateMin (min Config.timerRateMax (s.timerRate + Config.timerRateStep))) ∧
    (∃ t, hostAct .timerDown s = .next t ∧ timerLegal t.timerRate ∧ t = { s with timerRate := t.timerRate } ∧
      t.timerRate = max Config.timerRateMin (min Config.timerRateMax (s.timerRate - Config.timerRateStep)))

/-- Program load and font load (R272, R273, R274): an image of 1 to 3584 bytes is copied byte for byte to 0x200, the font of the
configuration to 0x000, every other byte is 0 (D24, the spec's choice), `PC` and `PROG_END` are set; every other field has its
reset value of R40 (R270 (3)); any other size starts no instance. The zeros, the empty stack and no key are
the spec's choices D13 (notes/assumptions/17.md), no fault is D15, `Running` and no notification the spec derives, and the values
of `STACK`, `WAITREG` and `FAULT_INFO`, which R40 leaves open, are the model's (notes/assumptions/4.md, 5.md, 6.md). -/
def Obligations.LaunchLoadsProgramAndFont : Prop :=
  ∀ (p : Params) (image : List Byte),
    (1 ≤ image.length → image.length ≤ 3584 →
      ∃ t, launch p image = .next t ∧ t.pc = 0x200#12 ∧ t.progEnd.toNat = 0x200 + image.length ∧ t.runState = .running ∧
        t.params = p ∧ Memory.wf t.mem = true ∧
        ((∀ x : Reg, t.getV x = 0#8) ∧ t.i = 0#12 ∧ t.sp.val = 0 ∧ t.dt = 0#8 ∧ t.st = 0#8 ∧ (∀ k, t.pixel k = false) ∧
          t.key = none ∧ t.pause = false ∧ t.cancel = false ∧ faultCode t.faultCause = 0#2 ∧ t.endNotified = false ∧
          t.waitNotify = false ∧ t.clockRate = 700 ∧ t.timerRate = 60) ∧
        t = { State.reset with mem := t.mem, params := p, progEnd := t.progEnd } ∧
        (∀ j (h : j < image.length), t.memRead (BitVec.ofNat 12 (0x200 + j)) = image[j]) ∧
        (∀ j (h : j < 80), t.memRead (BitVec.ofNat 12 j) = p.font[j]) ∧
        (∀ a : Addr, 80 ≤ a.toNat → a.toNat < 0x200 ∨ 0x200 + image.length ≤ a.toNat → t.memRead a = 0#8)) ∧
    (image.length = 0 ∨ 3584 < image.length → launch p image = .fault (.startupError image.length))

/-- The host's reset (R270, R226): from every state, a terminal one too, nothing of the old instance survives but its configuration;
the two rates are free inside their ranges (R37; R40 leaves them open; notes/assumptions/8.md), and the model's own schedule
goes on (notes/assumptions/37.md). An image of an illegal size leaves no instance (notes/assumptions/14.md). -/
def Obligations.HostResetDiscardsInstance : Prop :=
  ∀ (s : State) (image : List Byte),
    (1 ≤ image.length → image.length ≤ 3584 →
      ∃ t u, hostAct (.reset image) s = .next t ∧ launch s.params image = .next u ∧ clockLegal t.clockRate ∧
        timerLegal t.timerRate ∧
        t = { u with
          clockRate := t.clockRate, timerRate := t.timerRate, inbox := s.inbox, boundary := s.boundary, draws := s.draws }) ∧
    (image.length = 0 ∨ 3584 < image.length → hostAct (.reset image) s = .fault (.startupError image.length))

/-- The reset values of R40. `PC` and the two rates are D00's. `RUNSTATE` and `END_NOTIFIED` the spec derives. The zeros of `V`,
`I`, `SP`, `DT`, `ST`, `PB`, `PAUSE`, `CANCEL`, no key and the zeros of memory are the spec's choices D13 and D24
(notes/assumptions/17.md), `FAULT_CAUSE` its choice D15 (notes/assumptions/28.md). That the font area holds `FONT` is D00's, that
`FONT` is the default font is D27 and presumed (notes/assumptions/15.md). `STACK`, `WAITREG`, `FAULT_INFO`, which R40 leaves unspecified, and `PROG_END` without a program are not
in it. -/
def Obligations.ResetValues : Prop :=
  (∀ x : Reg, State.reset.getV x = 0#8) ∧ State.reset.i = 0#12 ∧ State.reset.pc = 0x200#12 ∧ State.reset.sp.val = 0 ∧
  State.reset.dt = 0#8 ∧ State.reset.st = 0#8 ∧ (∀ k, State.reset.pixel k = false) ∧ State.reset.key = none ∧
  State.reset.runState = .running ∧ faultCode State.reset.faultCause = 0#2 ∧ State.reset.pause = false ∧
  State.reset.cancel = false ∧ State.reset.endNotified = false ∧ State.reset.clockRate = 700 ∧ State.reset.timerRate = 60 ∧
  (∀ j (h : j < 80), State.reset.memRead (BitVec.ofNat 12 j) = defaultFont[j]) ∧
  (∀ a : Addr, 80 ≤ a.toNat → State.reset.memRead a = 0#8)

/-- The schedule of the host reaches the step (R245, R229): the first action of a boundary's list acts as `hostAct` says, with the
pulse of the last step over, and the step is then the step of its answer with the rest of the list; an action that stops stops the
step. With the quiet boundary of `BoundaryChecksInOrder` this says what every schedule does. That the host acts before the timer and
the CORE, at one boundary and in the order of the list, is the model's choice (notes/assumptions/1.md, notes/assumptions/13.md). -/
def Obligations.HostActionsArriveInOrder : Prop :=
  ∀ (s : State) (a : HostAction) (rest : List HostAction) (later : List (List HostAction)), s.inbox = (a :: rest) :: later →
    (∀ t, hostAct a { s with waitNotify := false } = .next t → step s = step { t with inbox := rest :: later }) ∧
    (∀ f, hostAct a { s with waitNotify := false } = .fault f → step s = .fault f) ∧
    (∀ r, hostAct a { s with waitNotify := false } ≠ .refused r)
end

