-- ==== Sys2Proof/Laws/Decode.lean ====
section
/-!
SUPPORT. The words the encoder lays out and the fields the decoder reads, as numbers; the fields of the six formats
(spec/30_encoding.md R92) read back from the words.
-/

namespace Sys2Proof

/-! ### Words as numbers -/

theorem toNat_append_add {m n : Nat} (a : BitVec m) (b : BitVec n) : (a ++ b).toNat = a.toNat * 2 ^ n + b.toNat := by
  rw [BitVec.toNat_append, Nat.shiftLeft_eq, Nat.mul_comm, Nat.two_pow_add_eq_or_of_lt b.isLt]

/-- Format A (R92): `op`, `nnn`. -/
theorem toNat_formatA (o : BitVec 4) (nnn : Addr) : (o ++ nnn : BitVec 16).toNat = o.toNat * 4096 + nnn.toNat :=
  toNat_append_add o nnn

/-- Formats XK and X (R92): `op`, `x`, `kk`. -/
theorem toNat_formatXK (o x : BitVec 4) (kk : Byte) :
    (o ++ x ++ kk : BitVec 16).toNat = o.toNat * 4096 + x.toNat * 256 + kk.toNat := by
  have h1 : (o ++ x ++ kk : BitVec 16).toNat = (o ++ x).toNat * 2 ^ 8 + kk.toNat := toNat_append_add (o ++ x) kk
  rw [h1, toNat_append_add o x]
  ring

/-- Formats XY and XYN (R92): `op`, `x`, `y`, `n`. -/
theorem toNat_formatXYN (o x y n : BitVec 4) :
    (o ++ x ++ y ++ n : BitVec 16).toNat = o.toNat * 4096 + x.toNat * 256 + y.toNat * 16 + n.toNat := by
  have h1 : (o ++ x ++ y ++ n : BitVec 16).toNat = (o ++ x ++ y).toNat * 2 ^ 4 + n.toNat :=
    toNat_append_add (o ++ x ++ y) n
  rw [h1, toNat_append_add (o ++ x) y, toNat_append_add o x]
  ring

/-! ### Fields as numbers (R91) -/

theorem fieldOp_toNat (w : Opcode) : (fieldOp w).toNat = w.toNat / 4096 % 16 := by
  simp [fieldOp, BitVec.extractLsb'_toNat, Nat.shiftRight_eq_div_pow]

theorem fieldX_toNat (w : Opcode) : (fieldX w).toNat = w.toNat / 256 % 16 := by
  simp [fieldX, BitVec.extractLsb'_toNat, Nat.shiftRight_eq_div_pow]

theorem fieldY_toNat (w : Opcode) : (fieldY w).toNat = w.toNat / 16 % 16 := by
  simp [fieldY, BitVec.extractLsb'_toNat, Nat.shiftRight_eq_div_pow]

theorem fieldN_toNat (w : Opcode) : (fieldN w).toNat = w.toNat % 16 := by
  simp [fieldN, BitVec.extractLsb'_toNat]

theorem fieldKK_toNat (w : Opcode) : (fieldKK w).toNat = w.toNat % 256 := by
  simp [fieldKK, BitVec.extractLsb'_toNat]

theorem fieldNNN_toNat (w : Opcode) : (fieldNNN w).toNat = w.toNat % 4096 := by
  simp [fieldNNN, BitVec.extractLsb'_toNat]

/-! ### Fields read back from words -/

theorem fieldOp_formatA (o : BitVec 4) (nnn : Addr) : fieldOp (o ++ nnn : BitVec 16) = o := by
  apply BitVec.eq_of_toNat_eq
  have := toNat_formatA o nnn
  rw [fieldOp_toNat]
  omega

theorem fieldNNN_formatA (o : BitVec 4) (nnn : Addr) : fieldNNN (o ++ nnn : BitVec 16) = nnn := by
  apply BitVec.eq_of_toNat_eq
  have := toNat_formatA o nnn
  rw [fieldNNN_toNat]
  omega

theorem fieldOp_formatXK (o x : BitVec 4) (kk : Byte) : fieldOp (o ++ x ++ kk : BitVec 16) = o := by
  apply BitVec.eq_of_toNat_eq
  have := toNat_formatXK o x kk
  rw [fieldOp_toNat]
  omega

theorem fieldX_formatXK (o x : BitVec 4) (kk : Byte) : fieldX (o ++ x ++ kk : BitVec 16) = x := by
  apply BitVec.eq_of_toNat_eq
  have := toNat_formatXK o x kk
  rw [fieldX_toNat]
  omega

theorem fieldKK_formatXK (o x : BitVec 4) (kk : Byte) : fieldKK (o ++ x ++ kk : BitVec 16) = kk := by
  apply BitVec.eq_of_toNat_eq
  have := toNat_formatXK o x kk
  rw [fieldKK_toNat]
  omega

theorem fieldOp_formatXYN (o x y n : BitVec 4) : fieldOp (o ++ x ++ y ++ n : BitVec 16) = o := by
  apply BitVec.eq_of_toNat_eq
  have := toNat_formatXYN o x y n
  rw [fieldOp_toNat]
  omega

theorem fieldX_formatXYN (o x y n : BitVec 4) : fieldX (o ++ x ++ y ++ n : BitVec 16) = x := by
  apply BitVec.eq_of_toNat_eq
  have := toNat_formatXYN o x y n
  rw [fieldX_toNat]
  omega

theorem fieldY_formatXYN (o x y n : BitVec 4) : fieldY (o ++ x ++ y ++ n : BitVec 16) = y := by
  apply BitVec.eq_of_toNat_eq
  have := toNat_formatXYN o x y n
  rw [fieldY_toNat]
  omega

theorem fieldN_formatXYN (o x y n : BitVec 4) : fieldN (o ++ x ++ y ++ n : BitVec 16) = n := by
  apply BitVec.eq_of_toNat_eq
  have := toNat_formatXYN o x y n
  rw [fieldN_toNat]
  omega

/-! ### Bytes -/

/-- The two bytes of an opcode, put together again, are the opcode (spec/20_memory.md R64). -/
theorem opcodeOfBytes_hi_lo (w : Opcode) : opcodeOfBytes (opcodeHi w) (opcodeLo w) = w := by
  apply BitVec.eq_of_toNat_eq
  have h : (opcodeOfBytes (opcodeHi w) (opcodeLo w)).toNat = (opcodeHi w).toNat * 2 ^ 8 + (opcodeLo w).toNat :=
    toNat_append_add _ _
  have h1 : (opcodeHi w).toNat = w.toNat / 256 % 256 := by
    simp [opcodeHi, BitVec.extractLsb'_toNat, Nat.shiftRight_eq_div_pow]
  have h2 : (opcodeLo w).toNat = w.toNat % 256 := by
    simp [opcodeLo, BitVec.extractLsb'_toNat]
  omega

/-- Decoding byte by byte is decoding the word. -/
theorem decodeBytes_hi_lo (w : Opcode) : decodeBytes (opcodeHi w) (opcodeLo w) = decode w := by
  rw [decodeBytes, opcodeOfBytes_hi_lo]

end Sys2Proof
end

