-- ==== Sys2Proof/Laws/State.lean ====
section
/-!
SUPPORT. What each update of the state does to each field: one clause per field per update, true by rfl, in simp's set (simp
splits the conjunctions), so that no later proof unfolds a record update.
-/

namespace Sys2Proof.Machine

variable (s : State)

@[simp] theorem State.setV_fields (x : Reg) (b : Byte) :
    (s.setV x b).i = s.i ∧ (s.setV x b).pc = s.pc ∧ (s.setV x b).sp = s.sp ∧ (s.setV x b).stack = s.stack ∧
    (s.setV x b).dt = s.dt ∧ (s.setV x b).st = s.st ∧ (s.setV x b).pb = s.pb ∧ (s.setV x b).key = s.key ∧
    (s.setV x b).runState = s.runState ∧ (s.setV x b).waitReg = s.waitReg ∧ (s.setV x b).progEnd = s.progEnd ∧
    (s.setV x b).faultCause = s.faultCause ∧ (s.setV x b).faultInfo = s.faultInfo ∧ (s.setV x b).pause = s.pause ∧
    (s.setV x b).cancel = s.cancel ∧ (s.setV x b).clockRate = s.clockRate ∧ (s.setV x b).timerRate = s.timerRate ∧
    (s.setV x b).endNotified = s.endNotified ∧ (s.setV x b).waitNotify = s.waitNotify ∧ (s.setV x b).mem = s.mem ∧
    (s.setV x b).params = s.params ∧ (s.setV x b).inbox = s.inbox ∧ (s.setV x b).boundary = s.boundary ∧
    (s.setV x b).draws = s.draws := by
  refine ⟨rfl, rfl, rfl, rfl, rfl, rfl, rfl, rfl, rfl, rfl, rfl, rfl, rfl, rfl, rfl, rfl, rfl, rfl, rfl, rfl, rfl, rfl, rfl, rfl⟩

@[simp] theorem State.setI_fields (a : Addr) :
    (s.setI a).v = s.v ∧ (s.setI a).i = a ∧ (s.setI a).pc = s.pc ∧ (s.setI a).sp = s.sp ∧ (s.setI a).stack = s.stack ∧
    (s.setI a).dt = s.dt ∧ (s.setI a).st = s.st ∧ (s.setI a).pb = s.pb ∧ (s.setI a).key = s.key ∧
    (s.setI a).runState = s.runState ∧ (s.setI a).waitReg = s.waitReg ∧ (s.setI a).progEnd = s.progEnd ∧
    (s.setI a).faultCause = s.faultCause ∧ (s.setI a).faultInfo = s.faultInfo ∧ (s.setI a).pause = s.pause ∧
    (s.setI a).cancel = s.cancel ∧ (s.setI a).clockRate = s.clockRate ∧ (s.setI a).timerRate = s.timerRate ∧
    (s.setI a).endNotified = s.endNotified ∧ (s.setI a).waitNotify = s.waitNotify ∧ (s.setI a).mem = s.mem ∧
    (s.setI a).params = s.params ∧ (s.setI a).inbox = s.inbox ∧ (s.setI a).boundary = s.boundary ∧ (s.setI a).draws = s.draws := by
  refine ⟨rfl, rfl, rfl, rfl, rfl, rfl, rfl, rfl, rfl, rfl, rfl, rfl, rfl, rfl, rfl, rfl, rfl, rfl, rfl, rfl, rfl, rfl, rfl, rfl, rfl⟩

@[simp] theorem State.setPc_fields (a : Addr) :
    (s.setPc a).v = s.v ∧ (s.setPc a).i = s.i ∧ (s.setPc a).pc = a ∧ (s.setPc a).sp = s.sp ∧ (s.setPc a).stack = s.stack ∧
    (s.setPc a).dt = s.dt ∧ (s.setPc a).st = s.st ∧ (s.setPc a).pb = s.pb ∧ (s.setPc a).key = s.key ∧
    (s.setPc a).runState = s.runState ∧ (s.setPc a).waitReg = s.waitReg ∧ (s.setPc a).progEnd = s.progEnd ∧
    (s.setPc a).faultCause = s.faultCause ∧ (s.setPc a).faultInfo = s.faultInfo ∧ (s.setPc a).pause = s.pause ∧
    (s.setPc a).cancel = s.cancel ∧ (s.setPc a).clockRate = s.clockRate ∧ (s.setPc a).timerRate = s.timerRate ∧
    (s.setPc a).endNotified = s.endNotified ∧ (s.setPc a).waitNotify = s.waitNotify ∧ (s.setPc a).mem = s.mem ∧
    (s.setPc a).params = s.params ∧ (s.setPc a).inbox = s.inbox ∧ (s.setPc a).boundary = s.boundary ∧
    (s.setPc a).draws = s.draws := by
  refine ⟨rfl, rfl, rfl, rfl, rfl, rfl, rfl, rfl, rfl, rfl, rfl, rfl, rfl, rfl, rfl, rfl, rfl, rfl, rfl, rfl, rfl, rfl, rfl, rfl, rfl⟩

@[simp] theorem State.advancePc_fields :
    (s.advancePc).v = s.v ∧ (s.advancePc).i = s.i ∧ (s.advancePc).pc = s.pc + 2#12 ∧ (s.advancePc).sp = s.sp ∧
    (s.advancePc).stack = s.stack ∧ (s.advancePc).dt = s.dt ∧ (s.advancePc).st = s.st ∧ (s.advancePc).pb = s.pb ∧
    (s.advancePc).key = s.key ∧ (s.advancePc).runState = s.runState ∧ (s.advancePc).waitReg = s.waitReg ∧
    (s.advancePc).progEnd = s.progEnd ∧ (s.advancePc).faultCause = s.faultCause ∧ (s.advancePc).faultInfo = s.faultInfo ∧
    (s.advancePc).pause = s.pause ∧ (s.advancePc).cancel = s.cancel ∧ (s.advancePc).clockRate = s.clockRate ∧
    (s.advancePc).timerRate = s.timerRate ∧ (s.advancePc).endNotified = s.endNotified ∧
    (s.advancePc).waitNotify = s.waitNotify ∧ (s.advancePc).mem = s.mem ∧ (s.advancePc).params = s.params ∧
    (s.advancePc).inbox = s.inbox ∧ (s.advancePc).boundary = s.boundary ∧ (s.advancePc).draws = s.draws := by
  refine ⟨rfl, rfl, rfl, rfl, rfl, rfl, rfl, rfl, rfl, rfl, rfl, rfl, rfl, rfl, rfl, rfl, rfl, rfl, rfl, rfl, rfl, rfl, rfl, rfl, rfl⟩

@[simp] theorem State.setDt_fields (b : Byte) :
    (s.setDt b).v = s.v ∧ (s.setDt b).i = s.i ∧ (s.setDt b).pc = s.pc ∧ (s.setDt b).sp = s.sp ∧ (s.setDt b).stack = s.stack ∧
    (s.setDt b).dt = b ∧ (s.setDt b).st = s.st ∧ (s.setDt b).pb = s.pb ∧ (s.setDt b).key = s.key ∧
    (s.setDt b).runState = s.runState ∧ (s.setDt b).waitReg = s.waitReg ∧ (s.setDt b).progEnd = s.progEnd ∧
    (s.setDt b).faultCause = s.faultCause ∧ (s.setDt b).faultInfo = s.faultInfo ∧ (s.setDt b).pause = s.pause ∧
    (s.setDt b).cancel = s.cancel ∧ (s.setDt b).clockRate = s.clockRate ∧ (s.setDt b).timerRate = s.timerRate ∧
    (s.setDt b).endNotified = s.endNotified ∧ (s.setDt b).waitNotify = s.waitNotify ∧ (s.setDt b).mem = s.mem ∧
    (s.setDt b).params = s.params ∧ (s.setDt b).inbox = s.inbox ∧ (s.setDt b).boundary = s.boundary ∧
    (s.setDt b).draws = s.draws := by
  refine ⟨rfl, rfl, rfl, rfl, rfl, rfl, rfl, rfl, rfl, rfl, rfl, rfl, rfl, rfl, rfl, rfl, rfl, rfl, rfl, rfl, rfl, rfl, rfl, rfl, rfl⟩

@[simp] theorem State.setSt_fields (b : Byte) :
    (s.setSt b).v = s.v ∧ (s.setSt b).i = s.i ∧ (s.setSt b).pc = s.pc ∧ (s.setSt b).sp = s.sp ∧ (s.setSt b).stack = s.stack ∧
    (s.setSt b).dt = s.dt ∧ (s.setSt b).st = b ∧ (s.setSt b).pb = s.pb ∧ (s.setSt b).key = s.key ∧
    (s.setSt b).runState = s.runState ∧ (s.setSt b).waitReg = s.waitReg ∧ (s.setSt b).progEnd = s.progEnd ∧
    (s.setSt b).faultCause = s.faultCause ∧ (s.setSt b).faultInfo = s.faultInfo ∧ (s.setSt b).pause = s.pause ∧
    (s.setSt b).cancel = s.cancel ∧ (s.setSt b).clockRate = s.clockRate ∧ (s.setSt b).timerRate = s.timerRate ∧
    (s.setSt b).endNotified = s.endNotified ∧ (s.setSt b).waitNotify = s.waitNotify ∧ (s.setSt b).mem = s.mem ∧
    (s.setSt b).params = s.params ∧ (s.setSt b).inbox = s.inbox ∧ (s.setSt b).boundary = s.boundary ∧
    (s.setSt b).draws = s.draws := by
  refine ⟨rfl, rfl, rfl, rfl, rfl, rfl, rfl, rfl, rfl, rfl, rfl, rfl, rfl, rfl, rfl, rfl, rfl, rfl, rfl, rfl, rfl, rfl, rfl, rfl, rfl⟩

@[simp] theorem State.memWrite_fields (a : Addr) (b : Byte) :
    (s.memWrite a b).v = s.v ∧ (s.memWrite a b).i = s.i ∧ (s.memWrite a b).pc = s.pc ∧ (s.memWrite a b).sp = s.sp ∧
    (s.memWrite a b).stack = s.stack ∧ (s.memWrite a b).dt = s.dt ∧ (s.memWrite a b).st = s.st ∧ (s.memWrite a b).pb = s.pb ∧
    (s.memWrite a b).key = s.key ∧ (s.memWrite a b).runState = s.runState ∧ (s.memWrite a b).waitReg = s.waitReg ∧
    (s.memWrite a b).progEnd = s.progEnd ∧ (s.memWrite a b).faultCause = s.faultCause ∧
    (s.memWrite a b).faultInfo = s.faultInfo ∧ (s.memWrite a b).pause = s.pause ∧ (s.memWrite a b).cancel = s.cancel ∧
    (s.memWrite a b).clockRate = s.clockRate ∧ (s.memWrite a b).timerRate = s.timerRate ∧
    (s.memWrite a b).endNotified = s.endNotified ∧ (s.memWrite a b).waitNotify = s.waitNotify ∧
    (s.memWrite a b).mem = Memory.write a.toNat b s.mem ∧ (s.memWrite a b).params = s.params ∧
    (s.memWrite a b).inbox = s.inbox ∧ (s.memWrite a b).boundary = s.boundary ∧ (s.memWrite a b).draws = s.draws := by
  refine ⟨rfl, rfl, rfl, rfl, rfl, rfl, rfl, rfl, rfl, rfl, rfl, rfl, rfl, rfl, rfl, rfl, rfl, rfl, rfl, rfl, rfl, rfl, rfl, rfl, rfl⟩

@[simp] theorem State.setPixel_fields (k : Nat) (b : Bool) :
    (s.setPixel k b).v = s.v ∧ (s.setPixel k b).i = s.i ∧ (s.setPixel k b).pc = s.pc ∧ (s.setPixel k b).sp = s.sp ∧
    (s.setPixel k b).stack = s.stack ∧ (s.setPixel k b).dt = s.dt ∧ (s.setPixel k b).st = s.st ∧ (s.setPixel k b).key = s.key ∧
    (s.setPixel k b).runState = s.runState ∧ (s.setPixel k b).waitReg = s.waitReg ∧ (s.setPixel k b).progEnd = s.progEnd ∧
    (s.setPixel k b).faultCause = s.faultCause ∧ (s.setPixel k b).faultInfo = s.faultInfo ∧ (s.setPixel k b).pause = s.pause ∧
    (s.setPixel k b).cancel = s.cancel ∧ (s.setPixel k b).clockRate = s.clockRate ∧ (s.setPixel k b).timerRate = s.timerRate ∧
    (s.setPixel k b).endNotified = s.endNotified ∧ (s.setPixel k b).waitNotify = s.waitNotify ∧ (s.setPixel k b).mem = s.mem ∧
    (s.setPixel k b).params = s.params ∧ (s.setPixel k b).inbox = s.inbox ∧ (s.setPixel k b).boundary = s.boundary ∧
    (s.setPixel k b).draws = s.draws := by
  refine ⟨rfl, rfl, rfl, rfl, rfl, rfl, rfl, rfl, rfl, rfl, rfl, rfl, rfl, rfl, rfl, rfl, rfl, rfl, rfl, rfl, rfl, rfl, rfl, rfl⟩

@[simp] theorem State.clearPixels_fields :
    (s.clearPixels).v = s.v ∧ (s.clearPixels).i = s.i ∧ (s.clearPixels).pc = s.pc ∧ (s.clearPixels).sp = s.sp ∧
    (s.clearPixels).stack = s.stack ∧ (s.clearPixels).dt = s.dt ∧ (s.clearPixels).st = s.st ∧ (s.clearPixels).pb = 0 ∧
    (s.clearPixels).key = s.key ∧ (s.clearPixels).runState = s.runState ∧ (s.clearPixels).waitReg = s.waitReg ∧
    (s.clearPixels).progEnd = s.progEnd ∧ (s.clearPixels).faultCause = s.faultCause ∧ (s.clearPixels).faultInfo = s.faultInfo ∧
    (s.clearPixels).pause = s.pause ∧ (s.clearPixels).cancel = s.cancel ∧ (s.clearPixels).clockRate = s.clockRate ∧
    (s.clearPixels).timerRate = s.timerRate ∧ (s.clearPixels).endNotified = s.endNotified ∧
    (s.clearPixels).waitNotify = s.waitNotify ∧ (s.clearPixels).mem = s.mem ∧ (s.clearPixels).params = s.params ∧
    (s.clearPixels).inbox = s.inbox ∧ (s.clearPixels).boundary = s.boundary ∧ (s.clearPixels).draws = s.draws := by
  refine ⟨rfl, rfl, rfl, rfl, rfl, rfl, rfl, rfl, rfl, rfl, rfl, rfl, rfl, rfl, rfl, rfl, rfl, rfl, rfl, rfl, rfl, rfl, rfl, rfl, rfl⟩

@[simp] theorem State.terminate_fields (r : RunState) :
    (s.terminate r).v = s.v ∧ (s.terminate r).i = s.i ∧ (s.terminate r).pc = s.pc ∧ (s.terminate r).sp = s.sp ∧
    (s.terminate r).stack = s.stack ∧ (s.terminate r).dt = s.dt ∧ (s.terminate r).st = s.st ∧ (s.terminate r).pb = s.pb ∧
    (s.terminate r).key = s.key ∧ (s.terminate r).runState = r ∧ (s.terminate r).waitReg = s.waitReg ∧
    (s.terminate r).progEnd = s.progEnd ∧ (s.terminate r).faultCause = s.faultCause ∧ (s.terminate r).faultInfo = s.faultInfo ∧
    (s.terminate r).pause = s.pause ∧ (s.terminate r).cancel = s.cancel ∧ (s.terminate r).clockRate = s.clockRate ∧
    (s.terminate r).timerRate = s.timerRate ∧ (s.terminate r).endNotified = true ∧ (s.terminate r).waitNotify = s.waitNotify ∧
    (s.terminate r).mem = s.mem ∧ (s.terminate r).params = s.params ∧ (s.terminate r).inbox = s.inbox ∧
    (s.terminate r).boundary = s.boundary ∧ (s.terminate r).draws = s.draws := by
  refine ⟨rfl, rfl, rfl, rfl, rfl, rfl, rfl, rfl, rfl, rfl, rfl, rfl, rfl, rfl, rfl, rfl, rfl, rfl, rfl, rfl, rfl, rfl, rfl, rfl, rfl⟩

@[simp] theorem State.raise_fields (c : FaultCause) (w : Opcode) :
    (s.raise c w).v = s.v ∧ (s.raise c w).i = s.i ∧ (s.raise c w).pc = s.pc ∧ (s.raise c w).sp = s.sp ∧
    (s.raise c w).stack = s.stack ∧ (s.raise c w).dt = s.dt ∧ (s.raise c w).st = s.st ∧ (s.raise c w).pb = s.pb ∧
    (s.raise c w).key = s.key ∧ (s.raise c w).runState = .terminatedError ∧ (s.raise c w).waitReg = s.waitReg ∧
    (s.raise c w).progEnd = s.progEnd ∧ (s.raise c w).faultCause = c ∧ (s.raise c w).faultInfo = w ∧
    (s.raise c w).pause = s.pause ∧ (s.raise c w).cancel = s.cancel ∧ (s.raise c w).clockRate = s.clockRate ∧
    (s.raise c w).timerRate = s.timerRate ∧ (s.raise c w).endNotified = true ∧ (s.raise c w).waitNotify = s.waitNotify ∧
    (s.raise c w).mem = s.mem ∧ (s.raise c w).params = s.params ∧ (s.raise c w).inbox = s.inbox ∧
    (s.raise c w).boundary = s.boundary ∧ (s.raise c w).draws = s.draws := by
  refine ⟨rfl, rfl, rfl, rfl, rfl, rfl, rfl, rfl, rfl, rfl, rfl, rfl, rfl, rfl, rfl, rfl, rfl, rfl, rfl, rfl, rfl, rfl, rfl, rfl, rfl⟩

@[simp] theorem State.waitForKey_fields (x : Reg) :
    (s.waitForKey x).v = s.v ∧ (s.waitForKey x).i = s.i ∧ (s.waitForKey x).pc = s.pc ∧ (s.waitForKey x).sp = s.sp ∧
    (s.waitForKey x).stack = s.stack ∧ (s.waitForKey x).dt = s.dt ∧ (s.waitForKey x).st = s.st ∧ (s.waitForKey x).pb = s.pb ∧
    (s.waitForKey x).key = s.key ∧ (s.waitForKey x).runState = .waitingForKey ∧ (s.waitForKey x).waitReg = x ∧
    (s.waitForKey x).progEnd = s.progEnd ∧ (s.waitForKey x).faultCause = s.faultCause ∧
    (s.waitForKey x).faultInfo = s.faultInfo ∧ (s.waitForKey x).pause = s.pause ∧ (s.waitForKey x).cancel = s.cancel ∧
    (s.waitForKey x).clockRate = s.clockRate ∧ (s.waitForKey x).timerRate = s.timerRate ∧
    (s.waitForKey x).endNotified = s.endNotified ∧ (s.waitForKey x).waitNotify = true ∧ (s.waitForKey x).mem = s.mem ∧
    (s.waitForKey x).params = s.params ∧ (s.waitForKey x).inbox = s.inbox ∧ (s.waitForKey x).boundary = s.boundary ∧
    (s.waitForKey x).draws = s.draws := by
  refine ⟨rfl, rfl, rfl, rfl, rfl, rfl, rfl, rfl, rfl, rfl, rfl, rfl, rfl, rfl, rfl, rfl, rfl, rfl, rfl, rfl, rfl, rfl, rfl, rfl, rfl⟩

@[simp] theorem State.setFlag_fields (f : Bool) :
    (s.setFlag f).i = s.i ∧ (s.setFlag f).pc = s.pc ∧ (s.setFlag f).sp = s.sp ∧ (s.setFlag f).stack = s.stack ∧
    (s.setFlag f).dt = s.dt ∧ (s.setFlag f).st = s.st ∧ (s.setFlag f).pb = s.pb ∧ (s.setFlag f).key = s.key ∧
    (s.setFlag f).runState = s.runState ∧ (s.setFlag f).waitReg = s.waitReg ∧ (s.setFlag f).progEnd = s.progEnd ∧
    (s.setFlag f).faultCause = s.faultCause ∧ (s.setFlag f).faultInfo = s.faultInfo ∧ (s.setFlag f).pause = s.pause ∧
    (s.setFlag f).cancel = s.cancel ∧ (s.setFlag f).clockRate = s.clockRate ∧ (s.setFlag f).timerRate = s.timerRate ∧
    (s.setFlag f).endNotified = s.endNotified ∧ (s.setFlag f).waitNotify = s.waitNotify ∧ (s.setFlag f).mem = s.mem ∧
    (s.setFlag f).params = s.params ∧ (s.setFlag f).inbox = s.inbox ∧ (s.setFlag f).boundary = s.boundary ∧
    (s.setFlag f).draws = s.draws := by
  refine ⟨rfl, rfl, rfl, rfl, rfl, rfl, rfl, rfl, rfl, rfl, rfl, rfl, rfl, rfl, rfl, rfl, rfl, rfl, rfl, rfl, rfl, rfl, rfl, rfl⟩

@[simp] theorem State.writeResultThenFlag_fields (x : Reg) (b : Byte) (f : Bool) :
    (s.writeResultThenFlag x b f).i = s.i ∧ (s.writeResultThenFlag x b f).pc = s.pc ∧ (s.writeResultThenFlag x b f).sp = s.sp ∧
    (s.writeResultThenFlag x b f).stack = s.stack ∧ (s.writeResultThenFlag x b f).dt = s.dt ∧
    (s.writeResultThenFlag x b f).st = s.st ∧ (s.writeResultThenFlag x b f).pb = s.pb ∧
    (s.writeResultThenFlag x b f).key = s.key ∧ (s.writeResultThenFlag x b f).runState = s.runState ∧
    (s.writeResultThenFlag x b f).waitReg = s.waitReg ∧ (s.writeResultThenFlag x b f).progEnd = s.progEnd ∧
    (s.writeResultThenFlag x b f).faultCause = s.faultCause ∧ (s.writeResultThenFlag x b f).faultInfo = s.faultInfo ∧
    (s.writeResultThenFlag x b f).pause = s.pause ∧ (s.writeResultThenFlag x b f).cancel = s.cancel ∧
    (s.writeResultThenFlag x b f).clockRate = s.clockRate ∧ (s.writeResultThenFlag x b f).timerRate = s.timerRate ∧
    (s.writeResultThenFlag x b f).endNotified = s.endNotified ∧ (s.writeResultThenFlag x b f).waitNotify = s.waitNotify ∧
    (s.writeResultThenFlag x b f).mem = s.mem ∧ (s.writeResultThenFlag x b f).params = s.params ∧
    (s.writeResultThenFlag x b f).inbox = s.inbox ∧ (s.writeResultThenFlag x b f).boundary = s.boundary ∧
    (s.writeResultThenFlag x b f).draws = s.draws := by
  refine ⟨rfl, rfl, rfl, rfl, rfl, rfl, rfl, rfl, rfl, rfl, rfl, rfl, rfl, rfl, rfl, rfl, rfl, rfl, rfl, rfl, rfl, rfl, rfl, rfl⟩

@[simp] theorem State.tick_fields :
    (s.tick).v = s.v ∧ (s.tick).i = s.i ∧ (s.tick).pc = s.pc ∧ (s.tick).sp = s.sp ∧ (s.tick).stack = s.stack ∧
    (s.tick).dt = countDown s.dt ∧ (s.tick).st = countDown s.st ∧ (s.tick).pb = s.pb ∧ (s.tick).key = s.key ∧
    (s.tick).runState = s.runState ∧ (s.tick).waitReg = s.waitReg ∧ (s.tick).progEnd = s.progEnd ∧
    (s.tick).faultCause = s.faultCause ∧ (s.tick).faultInfo = s.faultInfo ∧ (s.tick).pause = s.pause ∧
    (s.tick).cancel = s.cancel ∧ (s.tick).clockRate = s.clockRate ∧ (s.tick).timerRate = s.timerRate ∧
    (s.tick).endNotified = s.endNotified ∧ (s.tick).waitNotify = s.waitNotify ∧ (s.tick).mem = s.mem ∧
    (s.tick).params = s.params ∧ (s.tick).inbox = s.inbox ∧ (s.tick).boundary = s.boundary ∧ (s.tick).draws = s.draws := by
  refine ⟨rfl, rfl, rfl, rfl, rfl, rfl, rfl, rfl, rfl, rfl, rfl, rfl, rfl, rfl, rfl, rfl, rfl, rfl, rfl, rfl, rfl, rfl, rfl, rfl, rfl⟩

@[simp] theorem State.ticks_fields (n : Nat) :
    (s.ticks n).v = s.v ∧ (s.ticks n).i = s.i ∧ (s.ticks n).pc = s.pc ∧ (s.ticks n).sp = s.sp ∧ (s.ticks n).stack = s.stack ∧
    (s.ticks n).dt = countDownBy n s.dt ∧ (s.ticks n).st = countDownBy n s.st ∧ (s.ticks n).pb = s.pb ∧
    (s.ticks n).key = s.key ∧ (s.ticks n).runState = s.runState ∧ (s.ticks n).waitReg = s.waitReg ∧
    (s.ticks n).progEnd = s.progEnd ∧ (s.ticks n).faultCause = s.faultCause ∧ (s.ticks n).faultInfo = s.faultInfo ∧
    (s.ticks n).pause = s.pause ∧ (s.ticks n).cancel = s.cancel ∧ (s.ticks n).clockRate = s.clockRate ∧
    (s.ticks n).timerRate = s.timerRate ∧ (s.ticks n).endNotified = s.endNotified ∧ (s.ticks n).waitNotify = s.waitNotify ∧
    (s.ticks n).mem = s.mem ∧ (s.ticks n).params = s.params ∧ (s.ticks n).inbox = s.inbox ∧ (s.ticks n).boundary = s.boundary ∧
    (s.ticks n).draws = s.draws := by
  refine ⟨rfl, rfl, rfl, rfl, rfl, rfl, rfl, rfl, rfl, rfl, rfl, rfl, rfl, rfl, rfl, rfl, rfl, rfl, rfl, rfl, rfl, rfl, rfl, rfl, rfl⟩

@[simp] theorem State.skipIf_fields (c : Bool) :
    (s.skipIf c).v = s.v ∧ (s.skipIf c).i = s.i ∧ (s.skipIf c).sp = s.sp ∧ (s.skipIf c).stack = s.stack ∧
    (s.skipIf c).dt = s.dt ∧ (s.skipIf c).st = s.st ∧ (s.skipIf c).pb = s.pb ∧ (s.skipIf c).key = s.key ∧
    (s.skipIf c).runState = s.runState ∧ (s.skipIf c).waitReg = s.waitReg ∧ (s.skipIf c).progEnd = s.progEnd ∧
    (s.skipIf c).faultCause = s.faultCause ∧ (s.skipIf c).faultInfo = s.faultInfo ∧ (s.skipIf c).pause = s.pause ∧
    (s.skipIf c).cancel = s.cancel ∧ (s.skipIf c).clockRate = s.clockRate ∧ (s.skipIf c).timerRate = s.timerRate ∧
    (s.skipIf c).endNotified = s.endNotified ∧ (s.skipIf c).waitNotify = s.waitNotify ∧ (s.skipIf c).mem = s.mem ∧
    (s.skipIf c).params = s.params ∧ (s.skipIf c).inbox = s.inbox ∧ (s.skipIf c).boundary = s.boundary ∧
    (s.skipIf c).draws = s.draws := by
  cases c <;> refine ⟨rfl, rfl, rfl, rfl, rfl, rfl, rfl, rfl, rfl, rfl, rfl, rfl, rfl, rfl, rfl, rfl, rfl, rfl, rfl, rfl, rfl, rfl, rfl, rfl⟩

@[simp] theorem State.skipIf_pc (c : Bool) : (s.skipIf c).pc = if c then s.pc + 2#12 else s.pc := by
  cases c <;> rfl

/-- A skip is an update of `PC` alone. -/
theorem State.skipIf_eq (c : Bool) : s.skipIf c = s.setPc (if c then s.pc + 2#12 else s.pc) := by
  cases c <;> rfl

end Sys2Proof.Machine
end

