-- ==== Sys2Proof/Laws/Memory.lean ====
section
/-!
SUPPORT. The laws of memory: a read after a write, and the canonical form every memory operation keeps.
-/

namespace Sys2Proof.Machine

/-! ### Read after write, for every list of cells -/

theorem Memory.read_erase_self (a : Nat) (m : List Host.Cell) : Memory.read a (Memory.erase a m) = resetByte a := by
  induction m with
  | nil => rfl
  | cons c rest ih =>
    by_cases h : c.1 = a
    · simpa [Memory.erase, h] using ih
    · simpa [Memory.erase, Memory.read, h] using ih

theorem Memory.read_erase_other {a a' : Nat} (h : a' ≠ a) (m : List Host.Cell) :
    Memory.read a' (Memory.erase a m) = Memory.read a' m := by
  induction m with
  | nil => rfl
  | cons c rest ih =>
    by_cases hc : c.1 = a
    · have : c.1 ≠ a' := fun e => h (e ▸ hc)
      simpa [Memory.erase, Memory.read, hc, Ne.symm h] using ih
    · simp [Memory.erase, Memory.read, hc, ih]

theorem Memory.read_insert_other {a a' : Nat} (h : a' ≠ a) (b : Byte) (m : List Host.Cell) :
    Memory.read a' (Memory.insert a b m) = Memory.read a' m := by
  induction m with
  | nil => simp [Memory.insert, Memory.read, Ne.symm h]
  | cons c rest ih =>
    by_cases hc : a < c.1
    · simp [Memory.insert, Memory.read, hc, Ne.symm h]
    · simp [Memory.insert, Memory.read, hc, ih]

/-- No cell of the list has the address. -/
def Memory.absent (a : Nat) (m : List Host.Cell) : Prop := ∀ c ∈ m, c.1 ≠ a

theorem Memory.absent_erase (a : Nat) (m : List Host.Cell) : Memory.absent a (Memory.erase a m) := by
  induction m with
  | nil => intro c hc; cases hc
  | cons d rest ih =>
    by_cases h : d.1 = a
    · simpa [Memory.erase, h] using ih
    · intro c hc
      simp only [Memory.erase, h, if_false, List.mem_cons] at hc
      rcases hc with rfl | hc
      · exact h
      · exact ih c hc

theorem Memory.read_insert_self {a : Nat} {m : List Host.Cell} (h : Memory.absent a m) (b : Byte) :
    Memory.read a (Memory.insert a b m) = b := by
  induction m with
  | nil => simp [Memory.insert, Memory.read]
  | cons c rest ih =>
    have hc : c.1 ≠ a := h c (by simp)
    by_cases hlt : a < c.1
    · simp [Memory.insert, Memory.read, hlt]
    · simpa [Memory.insert, Memory.read, hlt, hc] using ih fun d hd => h d (by simp [hd])

/-- A read after a write: the byte written at its address, the old byte everywhere else. -/
theorem Memory.read_write (a a' : Nat) (b : Byte) (m : List Host.Cell) :
    Memory.read a' (Memory.write a b m) = if a' = a then b else Memory.read a' m := by
  unfold Memory.write
  by_cases h : a' = a
  · subst h
    split
    · simp [Memory.read_erase_self, *]
    · simp [Memory.read_insert_self (Memory.absent_erase _ m)]
  · split
    · simp [Memory.read_erase_other h]
    · simp [Memory.read_insert_other h, Memory.read_erase_other h]

/-- What `MemWrite` does to every `MemRead` (spec/20_memory.md R67). -/
theorem State.memRead_memWrite (s : State) (a a' : Addr) (b : Byte) :
    (s.memWrite a b).memRead a' = if a' = a then b else s.memRead a' := by
  simp [State.memRead, State.memWrite, Memory.read_write, BitVec.toNat_inj]

/-! ### The canonical form -/

theorem Memory.wf_iff (m : List Host.Cell) :
    Memory.wf m = true ↔
      (m.Pairwise fun c d => c.1 < d.1) ∧ ∀ c ∈ m, c.1 < Config.memBytes ∧ c.2 ≠ resetByte c.1 := by
  simp [Memory.wf]

theorem Memory.mem_erase {a : Nat} {c : Host.Cell} {m : List Host.Cell} (h : c ∈ Memory.erase a m) : c ∈ m := by
  induction m with
  | nil => exact h
  | cons d rest ih =>
    by_cases hd : d.1 = a
    · simp only [Memory.erase, hd, if_true] at h
      exact List.mem_cons_of_mem _ (ih h)
    · simp only [Memory.erase, hd, if_false, List.mem_cons] at h
      rcases h with rfl | h
      · simp
      · exact List.mem_cons_of_mem _ (ih h)

theorem Memory.mem_insert {a : Nat} {b : Byte} {c : Host.Cell} {m : List Host.Cell} (h : c ∈ Memory.insert a b m) :
    c = (a, b) ∨ c ∈ m := by
  induction m with
  | nil => simpa [Memory.insert] using h
  | cons d rest ih =>
    by_cases hd : a < d.1
    · simpa [Memory.insert, hd] using h
    · simp only [Memory.insert, hd, if_false, List.mem_cons] at h
      rcases h with rfl | h
      · simp
      · rcases ih h with h | h
        · exact .inl h
        · exact .inr (List.mem_cons_of_mem _ h)

theorem Memory.wf_erase {m : List Host.Cell} (h : Memory.wf m = true) (a : Nat) : Memory.wf (Memory.erase a m) = true := by
  rw [Memory.wf_iff] at h ⊢
  refine ⟨?_, fun c hc => h.2 c (Memory.mem_erase hc)⟩
  induction m with
  | nil => exact List.Pairwise.nil
  | cons d rest ih =>
    have hp := List.pairwise_cons.1 h.1
    have hr := ih ⟨hp.2, fun c hc => h.2 c (List.mem_cons_of_mem _ hc)⟩
    by_cases hd : d.1 = a
    · simpa [Memory.erase, hd] using hr
    · simp only [Memory.erase, hd, if_false]
      exact List.pairwise_cons.2 ⟨fun c hc => hp.1 c (Memory.mem_erase hc), hr⟩

theorem Memory.wf_insert {m : List Host.Cell} (h : Memory.wf m = true) {a : Nat} (ha : a < Config.memBytes)
    (hm : Memory.absent a m) {b : Byte} (hb : b ≠ resetByte a) : Memory.wf (Memory.insert a b m) = true := by
  rw [Memory.wf_iff] at h ⊢
  refine ⟨?_, fun c hc => ?_⟩
  · induction m with
    | nil => exact List.pairwise_singleton _ _
    | cons d rest ih =>
      have hp := List.pairwise_cons.1 h.1
      have hr := ih ⟨hp.2, fun c hc => h.2 c (List.mem_cons_of_mem _ hc)⟩ fun c hc => hm c (List.mem_cons_of_mem _ hc)
      have hda : d.1 ≠ a := hm d (by simp)
      by_cases hd : a < d.1
      · simp only [Memory.insert, hd, if_true]
        refine List.pairwise_cons.2 ⟨fun c hc => ?_, h.1⟩
        rcases List.mem_cons.1 hc with rfl | hc
        · exact hd
        · exact lt_trans hd (hp.1 c hc)
      · simp only [Memory.insert, hd, if_false]
        refine List.pairwise_cons.2 ⟨fun c hc => ?_, hr⟩
        rcases Memory.mem_insert hc with rfl | hc
        · exact lt_of_le_of_ne (not_lt.1 hd) hda
        · exact hp.1 c hc
  · rcases Memory.mem_insert hc with rfl | hc
    · exact ⟨ha, hb⟩
    · exact h.2 c hc

/-- A write inside the address space keeps the canonical form. -/
theorem Memory.wf_write {m : List Host.Cell} (h : Memory.wf m = true) {a : Nat} (ha : a < Config.memBytes) (b : Byte) :
    Memory.wf (Memory.write a b m) = true := by
  unfold Memory.write
  split
  · exact Memory.wf_erase h a
  · exact Memory.wf_insert (Memory.wf_erase h a) ha (Memory.absent_erase a m) ‹_›

theorem Memory.wf_writeAll (bytes : List Byte) (a : Nat) {m : List Host.Cell} (h : Memory.wf m = true) :
    Memory.wf (Memory.writeAll a bytes m) = true := by
  induction bytes generalizing a m with
  | nil => exact h
  | cons b rest ih => exact ih (a + 1) (Memory.wf_write h (Nat.mod_lt _ (by decide)) b)

/-- `MemWrite` keeps the canonical form. -/
theorem State.memWrite_wf {s : State} (h : Memory.wf s.mem = true) (a : Addr) (b : Byte) :
    Memory.wf (s.memWrite a b).mem = true :=
  Memory.wf_write h a.isLt b

/-- The memory of a fresh instance is in its canonical form. -/
theorem launchMem_wf (p : Params) (image : List Byte) : Memory.wf (launchMem p image) = true :=
  Memory.wf_writeAll _ _ (Memory.wf_writeAll _ _ rfl)

/-- The memory of the reset state is in its canonical form. -/
theorem reset_wf : Memory.wf State.reset.mem = true := rfl

/-- Two memories in canonical form that read alike inside the address space are equal data. -/
theorem Memory.read_of_wf_lt {m : List Host.Cell} {a : Nat} (h : ∀ c ∈ m, a < c.1) : Memory.read a m = resetByte a := by
  induction m with
  | nil => rfl
  | cons c rest ih =>
    have : c.1 ≠ a := (h c (by simp)).ne'
    simpa [Memory.read, this] using ih fun d hd => h d (by simp [hd])

theorem Memory.eq_of_read {m m' : List Host.Cell} (h : Memory.wf m = true) (h' : Memory.wf m' = true)
    (hr : ∀ a, Memory.read a m = Memory.read a m') : m = m' := by
  rw [Memory.wf_iff] at h h'
  induction m generalizing m' with
  | nil =>
    cases m' with
    | nil => rfl
    | cons d rest' =>
      have := hr d.1
      exact absurd (by simpa [Memory.read] using this.symm) (h'.2 d (by simp)).2
  | cons c rest ih =>
    have hp := List.pairwise_cons.1 h.1
    cases m' with
    | nil =>
      have := hr c.1
      exact absurd (by simpa [Memory.read] using this) (h.2 c (by simp)).2
    | cons d rest' =>
      have hp' := List.pairwise_cons.1 h'.1
      have hcd : c.1 = d.1 := by
        rcases lt_trichotomy c.1 d.1 with hlt | heq | hgt
        · have h1 := hr c.1
          rw [Memory.read_of_wf_lt (m := d :: rest') (by
            intro e he
            rcases List.mem_cons.1 he with rfl | he
            · exact hlt
            · exact lt_trans hlt (hp'.1 e he))] at h1
          exact absurd (by simpa [Memory.read] using h1) (h.2 c (by simp)).2
        · exact heq
        · have h1 := hr d.1
          rw [Memory.read_of_wf_lt (m := c :: rest) (by
            intro e he
            rcases List.mem_cons.1 he with rfl | he
            · exact hgt
            · exact lt_trans hgt (hp.1 e he))] at h1
          exact absurd (by simpa [Memory.read] using h1.symm) (h'.2 d (by simp)).2
      have hb : c.2 = d.2 := by simpa [Memory.read, hcd] using hr c.1
      have hrest : rest = rest' := by
        refine ih ⟨hp.2, fun e he => h.2 e (by simp [he])⟩ ⟨hp'.2, fun e he => h'.2 e (by simp [he])⟩ fun a => ?_
        by_cases ha : a = c.1
        · subst ha
          rw [Memory.read_of_wf_lt hp.1, Memory.read_of_wf_lt (by rw [hcd]; exact hp'.1)]
        · have h1 := hr a
          simpa [Memory.read, Ne.symm ha, show d.1 ≠ a from hcd ▸ Ne.symm ha] using h1
      rw [hrest, Prod.ext hcd hb]

end Sys2Proof.Machine
end

