-- ==== Sys2Proof/Laws/Ops.lean ====
section
/-!
SUPPORT. One lemma per shared operation that says once what it does.
-/

namespace Sys2Proof.Machine

/-! ### General registers and flags -/

/-- What a register write does to every register read (spec/10_state.md R20). -/
theorem State.getV_setV (s : State) (x r : Reg) (b : Byte) : (s.setV x b).getV r = if r = x then b else s.getV r := by
  unfold State.getV State.setV
  rw [Vector.getElem_set]
  simp only [BitVec.toNat_inj, eq_comm]

/-- Two states whose registers read alike hold the same register file. -/
theorem State.v_ext {s t : State} (h : ∀ r : Reg, s.getV r = t.getV r) : s.v = t.v := by
  apply Vector.ext
  intro i hi
  have := h (BitVec.ofNat 4 i)
  simpa [State.getV, Nat.mod_eq_of_lt hi] using this

/-- What the flag write does to every register read: VF is 0 or 1, the others keep their value (R21). -/
theorem State.getV_setFlag (s : State) (f : Bool) (r : Reg) :
    (s.setFlag f).getV r = if r = vf then bitByte f else s.getV r :=
  s.getV_setV vf r (bitByte f)

/-- Result first, flag after it: the flag wins when both go to VF (R21). -/
theorem State.getV_writeResultThenFlag (s : State) (x r : Reg) (b : Byte) (f : Bool) :
    (s.writeResultThenFlag x b f).getV r = if r = vf then bitByte f else if r = x then b else s.getV r := by
  simp [State.writeResultThenFlag, State.getV_setFlag, State.getV_setV]

/-- Register reads see nothing but the register file. -/
theorem State.getV_congr {s t : State} (h : t.v = s.v) (r : Reg) : t.getV r = s.getV r := by
  simp [State.getV, h]

/-- Memory reads see nothing but the memory. -/
theorem State.memRead_congr {s t : State} (h : t.mem = s.mem) (a : Addr) : t.memRead a = s.memRead a := by
  simp [State.memRead, h]

theorem bitByte_toNat (b : Bool) : (bitByte b).toNat = if b then 1 else 0 := by cases b <;> rfl

/-! ### The pixel buffer -/

/-- What a pixel write does to every pixel read (spec/10_state.md R30, spec/20_memory.md R62). -/
theorem State.pixel_setPixel (s : State) (k j : Nat) (b : Bool) :
    (s.setPixel k b).pixel j = if j % 2048 = k % 2048 then b else s.pixel j := by
  have hk : k % 2048 < 2048 := Nat.mod_lt _ (by decide)
  have hj : j % 2048 < 2048 := Nat.mod_lt _ (by decide)
  unfold State.pixel State.setPixel
  cases b
  · by_cases h : j % 2048 = k % 2048
    · simp [h]
    · simp [h, hj]
  · by_cases h : j % 2048 = k % 2048
    · simp [h, hk]
    · simp [BitVec.getLsbD_twoPow, h, Ne.symm h]

/-- Two states whose pixels read alike hold the same pixel buffer. -/
theorem State.pb_ext {s t : State} (h : ∀ k, k < 2048 → s.pixel k = t.pixel k) : s.pb = t.pb := by
  apply BitVec.eq_of_getLsbD_eq
  intro k hk
  have := h k hk
  simpa [State.pixel, Nat.mod_eq_of_lt hk] using this

theorem State.pixel_congr {s t : State} (h : t.pb = s.pb) (k : Nat) : t.pixel k = s.pixel k := by
  simp [State.pixel, h]

theorem State.pixel_clearPixels (s : State) (k : Nat) : s.clearPixels.pixel k = false := by
  simp [State.pixel, State.clearPixels]

/-! ### The call stack -/

/-- `Push` with room: the entry at `SP`, and `SP` one more (spec/10_state.md R27). -/
theorem State.push_spec {s t : State} {a : Addr} (h : s.push a = some t) :
    ∃ hsp : s.sp.val < 16, t = { s with stack := s.stack.set s.sp.val a hsp, sp := ⟨s.sp.val + 1, Nat.succ_lt_succ hsp⟩ } := by
  unfold State.push at h
  split at h
  · exact ⟨‹_›, (Option.some.inj h).symm⟩
  · cases h

/-- `Push` answers nothing exactly when the stack is full (R27). -/
theorem State.push_none (s : State) (a : Addr) : s.push a = none ↔ s.sp.val = 16 := by
  have := s.sp.isLt
  unfold State.push
  split <;> simp only [reduceCtorEq, false_iff, true_iff] <;> simp only [Config.stackDepth] at * <;> omega

/-- `Pop` on a stack in use: `SP` one less, the entry there, nothing erased (R27). -/
theorem State.pop_spec {s t : State} {a : Addr} (h : s.pop = some (a, t)) :
    ∃ hsp : 0 < s.sp.val, a = s.stack[s.sp.val - 1]'(by have := s.sp.isLt; omega) ∧
      t = { s with sp := ⟨s.sp.val - 1, by have := s.sp.isLt; omega⟩ } := by
  unfold State.pop at h
  split at h
  · obtain ⟨rfl, rfl⟩ := Prod.mk.inj (Option.some.inj h)
    exact ⟨‹_›, rfl, rfl⟩
  · cases h

/-- `Pop` answers nothing exactly when the stack is empty (R27). -/
theorem State.pop_none (s : State) : s.pop = none ↔ s.sp.val = 0 := by
  unfold State.pop
  split <;> simp <;> omega

/-! ### The loop -/

@[simp] theorem forEach_zero (body : Nat → State → State) (s : State) : forEach 0 body s = s := rfl

theorem forEach_succ (n : Nat) (body : Nat → State → State) (s : State) :
    forEach (n + 1) body s = body n (forEach n body s) := rfl

/-- The induction of the loop, packaged once: what holds before the loop and what each pass carries on holds after it. -/
theorem forEach_induct {body : Nat → State → State} (P : Nat → State → Prop) {s : State} {n : Nat} (h0 : P 0 s)
    (hs : ∀ k t, k < n → P k t → P (k + 1) (body k t)) : P n (forEach n body s) := by
  induction n with
  | zero => exact h0
  | succ n ih => exact hs n _ n.lt_succ_self (ih fun k t hk => hs k t (Nat.lt_succ_of_lt hk))

/-! ### The key map -/

/-- The code `leastCode` answers is a position of the list that holds the host code, and no earlier one does (R186). -/
theorem leastCode_spec {h c d : Nat} {l : List Nat} (e : leastCode h c l = some d) :
    ∃ k, d = c + k ∧ l[k]? = some h ∧ ∀ j, j < k → l[j]? ≠ some h := by
  induction l generalizing c with
  | nil => cases e
  | cons entry rest ih =>
    by_cases he : entry = h
    · simp only [leastCode, he, if_true, Option.some.injEq] at e
      exact ⟨0, by omega, by simp [he], fun j hj => absurd hj (by omega)⟩
    · simp only [leastCode, he, if_false] at e
      obtain ⟨k, rfl, hk, hmin⟩ := ih e
      refine ⟨k + 1, by omega, by simpa using hk, fun j hj => ?_⟩
      cases j with
      | zero => simpa using he
      | succ j => simpa using hmin j (by omega)

/-- `leastCode` answers none exactly when the host code is not in the list (R186). -/
theorem leastCode_none (h c : Nat) (l : List Nat) : leastCode h c l = none ↔ h ∉ l := by
  induction l generalizing c with
  | nil => simp [leastCode]
  | cons entry rest ih =>
    by_cases he : entry = h
    · simp [leastCode, he]
    · simp [leastCode, he, ih, Ne.symm he]

/-! ### Timers -/

theorem countDown_toNat (b : Byte) : (countDown b).toNat = b.toNat - 1 := by
  unfold countDown
  split
  · simp [*]
  · have hb : b.toNat ≠ 0 := fun h => ‹¬b = 0#8› (BitVec.eq_of_toNat_eq (by simpa using h))
    have := b.isLt
    rw [BitVec.toNat_sub]
    simp only [BitVec.toNat_ofNat]
    omega

/-- n ticks take a counter down by n, never below 0 (spec/60_exceptions.md R238). -/
theorem countDownBy_toNat (n : Nat) (b : Byte) : (countDownBy n b).toNat = b.toNat - n := by
  induction n with
  | zero => rfl
  | succ n ih => rw [countDownBy, countDown_toNat, ih]; omega

/-- The ticks of a boundary are single ticks, one after the other. -/
theorem State.ticks_succ (n : Nat) (s : State) : s.ticks (n + 1) = (s.ticks n).tick := rfl

end Sys2Proof.Machine
end

