-- ==== Sys2Proof/Laws/PerInstr.lean ====
section
/-!
SUPPORT. The family Encoding, one lemma per instruction: the encoder's word carries the fixed bits of the instruction's row of
spec/opcode_table.json (its match under its mask).
-/

namespace Sys2Proof.Laws.Encoding

/-- The row of an instruction in spec/opcode_table.json: its match and its mask. -/
def row : Instr → Opcode × Opcode
  | .cls => (0x00E0#16, 0xFFFF#16)
  | .ret => (0x00EE#16, 0xFFFF#16)
  | .jp _ => (0x1000#16, 0xF000#16)
  | .call _ => (0x2000#16, 0xF000#16)
  | .seByte _ _ => (0x3000#16, 0xF000#16)
  | .sneByte _ _ => (0x4000#16, 0xF000#16)
  | .seReg _ _ => (0x5000#16, 0xF00F#16)
  | .ldByte _ _ => (0x6000#16, 0xF000#16)
  | .addByte _ _ => (0x7000#16, 0xF000#16)
  | .ldReg _ _ => (0x8000#16, 0xF00F#16)
  | .orReg _ _ => (0x8001#16, 0xF00F#16)
  | .andReg _ _ => (0x8002#16, 0xF00F#16)
  | .xorReg _ _ => (0x8003#16, 0xF00F#16)
  | .addReg _ _ => (0x8004#16, 0xF00F#16)
  | .sub _ _ => (0x8005#16, 0xF00F#16)
  | .shr _ _ => (0x8006#16, 0xF00F#16)
  | .subn _ _ => (0x8007#16, 0xF00F#16)
  | .shl _ _ => (0x800E#16, 0xF00F#16)
  | .sneReg _ _ => (0x9000#16, 0xF00F#16)
  | .ldI _ => (0xA000#16, 0xF000#16)
  | .jpV0 _ => (0xB000#16, 0xF000#16)
  | .rnd _ _ => (0xC000#16, 0xF000#16)
  | .drw _ _ _ => (0xD000#16, 0xF000#16)
  | .skp _ => (0xE09E#16, 0xF0FF#16)
  | .sknp _ => (0xE0A1#16, 0xF0FF#16)
  | .ldVxDt _ => (0xF007#16, 0xF0FF#16)
  | .ldVxK _ => (0xF00A#16, 0xF0FF#16)
  | .ldDtVx _ => (0xF015#16, 0xF0FF#16)
  | .ldStVx _ => (0xF018#16, 0xF0FF#16)
  | .addI _ => (0xF01E#16, 0xF0FF#16)
  | .ldF _ => (0xF029#16, 0xF0FF#16)
  | .ldB _ => (0xF033#16, 0xF0FF#16)
  | .ldMemVx _ => (0xF055#16, 0xF0FF#16)
  | .ldVxMem _ => (0xF065#16, 0xF0FF#16)

/-- An instruction's word, under the mask of its row, is the match of its row. -/
def Statement (i : Instr) : Prop := encode i &&& (row i).2 = (row i).1

/-- Format A: the mask keeps `op`. -/
theorem mask_formatA (o : BitVec 4) (nnn : Addr) :
    (o ++ nnn : BitVec 16) &&& (0xF#4 ++ 0x000#12 : BitVec 16) = (o ++ 0x000#12 : BitVec 16) := by
  have h : (o ++ nnn) &&& (0xF#4 ++ 0x000#12) = (o &&& 0xF#4) ++ (nnn &&& 0x000#12) := BitVec.and_append
  have ho : o &&& 0xF#4 = o := BitVec.and_allOnes
  rw [ho, BitVec.and_zero] at h
  exact h

/-- Formats XK and X: the mask keeps `op` and, of `kk`, what `m` keeps. -/
theorem mask_formatXK (o x : BitVec 4) (kk m : Byte) :
    (o ++ x ++ kk : BitVec 16) &&& (0xF#4 ++ 0x0#4 ++ m : BitVec 16) = (o ++ 0x0#4 ++ (kk &&& m) : BitVec 16) := by
  have h : (o ++ x ++ kk) &&& (0xF#4 ++ 0x0#4 ++ m) = ((o ++ x) &&& (0xF#4 ++ 0x0#4)) ++ (kk &&& m) := BitVec.and_append
  have h' : (o ++ x) &&& (0xF#4 ++ 0x0#4) = (o &&& 0xF#4) ++ (x &&& 0x0#4) := BitVec.and_append
  have ho : o &&& 0xF#4 = o := BitVec.and_allOnes
  rw [h', ho, BitVec.and_zero] at h
  exact h

/-- Formats XY and XYN: the mask keeps `op` and, of `n`, what `m` keeps. -/
theorem mask_formatXYN (o x y n m : BitVec 4) :
    (o ++ x ++ y ++ n : BitVec 16) &&& (0xF#4 ++ 0x0#4 ++ 0x0#4 ++ m : BitVec 16) =
      (o ++ 0x0#4 ++ 0x0#4 ++ (n &&& m) : BitVec 16) := by
  have h : (o ++ x ++ y ++ n) &&& (0xF#4 ++ 0x0#4 ++ 0x0#4 ++ m) =
      ((o ++ x ++ y) &&& (0xF#4 ++ 0x0#4 ++ 0x0#4)) ++ (n &&& m) := BitVec.and_append
  have h' : (o ++ x ++ y) &&& (0xF#4 ++ 0x0#4 ++ 0x0#4) = ((o ++ x) &&& (0xF#4 ++ 0x0#4)) ++ (y &&& 0x0#4) :=
    BitVec.and_append
  have h'' : (o ++ x) &&& (0xF#4 ++ 0x0#4) = (o &&& 0xF#4) ++ (x &&& 0x0#4) := BitVec.and_append
  have ho : o &&& 0xF#4 = o := BitVec.and_allOnes
  rw [h', h'', ho, BitVec.and_zero, BitVec.and_zero] at h
  exact h

theorem cls : Statement (.cls) :=
  rfl

theorem ret : Statement (.ret) :=
  rfl

theorem jp (nnn : Addr) : Statement (.jp nnn) :=
  mask_formatA 0x1#4 nnn

theorem call (nnn : Addr) : Statement (.call nnn) :=
  mask_formatA 0x2#4 nnn

theorem seByte (x : Reg) (kk : Byte) : Statement (.seByte x kk) :=
  (mask_formatXK 0x3#4 x kk 0x00#8).trans (by rw [BitVec.and_zero]; rfl)

theorem sneByte (x : Reg) (kk : Byte) : Statement (.sneByte x kk) :=
  (mask_formatXK 0x4#4 x kk 0x00#8).trans (by rw [BitVec.and_zero]; rfl)

theorem seReg (x : Reg) (y : Reg) : Statement (.seReg x y) :=
  mask_formatXYN 0x5#4 x y 0x0#4 0xF#4

theorem ldByte (x : Reg) (kk : Byte) : Statement (.ldByte x kk) :=
  (mask_formatXK 0x6#4 x kk 0x00#8).trans (by rw [BitVec.and_zero]; rfl)

theorem addByte (x : Reg) (kk : Byte) : Statement (.addByte x kk) :=
  (mask_formatXK 0x7#4 x kk 0x00#8).trans (by rw [BitVec.and_zero]; rfl)

theorem ldReg (x : Reg) (y : Reg) : Statement (.ldReg x y) :=
  mask_formatXYN 0x8#4 x y 0x0#4 0xF#4

theorem orReg (x : Reg) (y : Reg) : Statement (.orReg x y) :=
  mask_formatXYN 0x8#4 x y 0x1#4 0xF#4

theorem andReg (x : Reg) (y : Reg) : Statement (.andReg x y) :=
  mask_formatXYN 0x8#4 x y 0x2#4 0xF#4

theorem xorReg (x : Reg) (y : Reg) : Statement (.xorReg x y) :=
  mask_formatXYN 0x8#4 x y 0x3#4 0xF#4

theorem addReg (x : Reg) (y : Reg) : Statement (.addReg x y) :=
  mask_formatXYN 0x8#4 x y 0x4#4 0xF#4

theorem sub (x : Reg) (y : Reg) : Statement (.sub x y) :=
  mask_formatXYN 0x8#4 x y 0x5#4 0xF#4

theorem shr (x : Reg) (y : Reg) : Statement (.shr x y) :=
  mask_formatXYN 0x8#4 x y 0x6#4 0xF#4

theorem subn (x : Reg) (y : Reg) : Statement (.subn x y) :=
  mask_formatXYN 0x8#4 x y 0x7#4 0xF#4

theorem shl (x : Reg) (y : Reg) : Statement (.shl x y) :=
  mask_formatXYN 0x8#4 x y 0xE#4 0xF#4

theorem sneReg (x : Reg) (y : Reg) : Statement (.sneReg x y) :=
  mask_formatXYN 0x9#4 x y 0x0#4 0xF#4

theorem ldI (nnn : Addr) : Statement (.ldI nnn) :=
  mask_formatA 0xA#4 nnn

theorem jpV0 (nnn : Addr) : Statement (.jpV0 nnn) :=
  mask_formatA 0xB#4 nnn

theorem rnd (x : Reg) (kk : Byte) : Statement (.rnd x kk) :=
  (mask_formatXK 0xC#4 x kk 0x00#8).trans (by rw [BitVec.and_zero]; rfl)

theorem drw (x : Reg) (y : Reg) (n : Nibble) : Statement (.drw x y n) :=
  (mask_formatXYN 0xD#4 x y n 0x0#4).trans (by rw [BitVec.and_zero]; rfl)

theorem skp (x : Reg) : Statement (.skp x) :=
  mask_formatXK 0xE#4 x 0x9E#8 0xFF#8

theorem sknp (x : Reg) : Statement (.sknp x) :=
  mask_formatXK 0xE#4 x 0xA1#8 0xFF#8

theorem ldVxDt (x : Reg) : Statement (.ldVxDt x) :=
  mask_formatXK 0xF#4 x 0x07#8 0xFF#8

theorem ldVxK (x : Reg) : Statement (.ldVxK x) :=
  mask_formatXK 0xF#4 x 0x0A#8 0xFF#8

theorem ldDtVx (x : Reg) : Statement (.ldDtVx x) :=
  mask_formatXK 0xF#4 x 0x15#8 0xFF#8

theorem ldStVx (x : Reg) : Statement (.ldStVx x) :=
  mask_formatXK 0xF#4 x 0x18#8 0xFF#8

theorem addI (x : Reg) : Statement (.addI x) :=
  mask_formatXK 0xF#4 x 0x1E#8 0xFF#8

theorem ldF (x : Reg) : Statement (.ldF x) :=
  mask_formatXK 0xF#4 x 0x29#8 0xFF#8

theorem ldB (x : Reg) : Statement (.ldB x) :=
  mask_formatXK 0xF#4 x 0x33#8 0xFF#8

theorem ldMemVx (x : Reg) : Statement (.ldMemVx x) :=
  mask_formatXK 0xF#4 x 0x55#8 0xFF#8

theorem ldVxMem (x : Reg) : Statement (.ldVxMem x) :=
  mask_formatXK 0xF#4 x 0x65#8 0xFF#8

end Sys2Proof.Laws.Encoding
end

