-- ==== Sys2Proof/Laws/Run.lean ====
section
/-!
SUPPORT. What a step can do, said once: the host and timer part of a step boundary, its evaluation by the CORE, the instruction
step.
-/

namespace Sys2Proof.Machine

/-- A step that answers a next state: what arrives at the boundary answers a state, and the CORE evaluates that. -/
theorem step_next {s u : State} (h : step s = .next u) : ∃ t, arrive s = .next t ∧ evaluateBoundary t = .next u := by
  unfold step cycle at h
  split at h
  · exact ⟨_, ‹_›, h⟩
  · cases h
  · cases h

/-- What arrives at a boundary: the host's actions answer a state, then the TIMER agent. -/
theorem arrive_next {s t : State} (h : arrive s = .next t) :
    ∃ m, hostActs (s.inbox.headD []) { s with inbox := s.inbox.tail, waitNotify := false } = .next m ∧ t = m.timerAgent := by
  unfold arrive at h
  split at h
  · exact ⟨_, ‹_›, by cases h; rfl⟩
  · cases h
  · cases h

/-- With the host quiet, what arrives at a boundary is the ticks. -/
theorem arrive_quiet {s : State} (h : s.hostQuiet) : arrive s = .next s.atBoundary := by
  unfold arrive State.hostQuiet at *
  rw [h]
  rfl

/-- The host's actions one by one: after the first, the rest act on the state it answers. -/
theorem hostActs_next {a : HostAction} {rest : List HostAction} {s u : State} (h : hostActs (a :: rest) s = .next u) :
    ∃ t, hostAct a s = .next t ∧ hostActs rest t = .next u := by
  unfold hostActs at h
  split at h
  · exact ⟨_, ‹_›, h⟩
  · cases h
  · cases h

/-- What every host action keeps, a list of host actions keeps. -/
theorem hostActs_keeps {P : State → Prop} {l : List HostAction}
    (step1 : ∀ a, a ∈ l → ∀ s t, P s → hostAct a s = .next t → P t) {s u : State} (hs : P s)
    (h : hostActs l s = .next u) : P u := by
  induction l generalizing s with
  | nil => cases h; exact hs
  | cons a rest ih =>
    obtain ⟨t, ha, hr⟩ := hostActs_next h
    exact ih (fun b hb => step1 b (List.mem_cons_of_mem _ hb)) (step1 a (by simp) s t hs ha) hr

/-- A host action other than reset always answers a next state: the write while the run is active, else nothing. -/
theorem hostAct_write {a : HostAction} (ha : ∀ image, a ≠ .reset image) (s : State) :
    hostAct a s = .next (if s.runState.active then s.hostWrite a else s) := by
  cases a <;> first | rfl | exact absurd rfl (ha _)

/-- The default timer rate lies inside the open bounds. -/
theorem timerLegal_default : timerLegal Config.timerRateDefault :=
  ⟨Nat.le_of_lt_succ Config.timerRateLow.isLt, Nat.le_add_right _ _⟩

/-- A clamped timer rate lies inside the open bounds. -/
theorem timerLegal_clampTimerRate (r : Nat) : timerLegal (clampTimerRate r) :=
  ⟨Nat.le_max_left _ _, Nat.max_le.2 ⟨Nat.le_trans timerLegal_default.1 timerLegal_default.2, Nat.min_le_left _ _⟩⟩

/-- A host reset that answers a next state: the image has a legal size, and the state is the fresh instance of the same
configuration with the model's own fields going on and the two rates free inside their ranges. -/
theorem hostReset_next {image : List Byte} {s t : State} (h : hostAct (.reset image) s = .next t) :
    imageWellFormed image = true ∧
      t = { freshInstance s.params image with
        clockRate := Config.clockRateMin + Config.clockRateStep * (Config.clockAfterReset s.boundary).val
        timerRate := clampTimerRate (Config.timerAfterReset s.boundary)
        inbox := s.inbox
        boundary := s.boundary
        draws := s.draws } := by
  simp only [hostAct, State.hostReset, launch] at h
  by_cases hi : imageWellFormed image = true
  · rw [if_pos hi] at h
    cases h
    exact ⟨hi, rfl⟩
  · rw [if_neg hi] at h
    cases h

/-- What a delivered key does (spec/43_keys_timers.md R187): the latch is written; in `WaitingForKey` a matching code also loads
the waiting register and resumes `Running`. -/
theorem State.setKey_cases (k : Option Nat) (s : State) :
    (∃ c, s.runState = .waitingForKey ∧ k.bind (keyMap s.params) = some c ∧
      s.setKey k = { s with key := k, v := (s.setV s.waitReg (c.setWidth 8)).v, runState := .running }) ∨
    (¬ (s.runState = .waitingForKey ∧ (k.bind (keyMap s.params)).isSome) ∧ s.setKey k = { s with key := k }) := by
  unfold State.setKey State.pressedCode
  cases hr : s.runState <;> cases hk : k.bind (keyMap s.params) <;> simp [hk, hr, State.setV]

/-- No host action reads the schedule, and each keeps it: with another schedule it answers the same with that schedule. -/
theorem hostAct_inbox (a : HostAction) (s : State) (l : List (List HostAction)) :
    hostAct a { s with inbox := l } =
      match hostAct a s with
      | .next t => .next { t with inbox := l }
      | .fault f => .fault f
      | .refused r => .refused r := by
  cases a with
  | reset image => cases h : launch s.params image <;> simp [hostAct, State.hostReset, h]
  | setKey k =>
    cases hr : s.runState <;> cases hk : k.bind (keyMap s.params) <;>
      simp [hostAct, State.hostWrite, State.setKey, State.pressedCode, RunState.active, State.setV, hr, hk]
  | _ => cases hr : s.runState <;> simp [hostAct, State.hostWrite, RunState.active, hr]

/-- No host action emits `WAIT_NOTIFY`. -/
theorem hostAct_waitNotify {a : HostAction} {s t : State} (hw : s.waitNotify = false) (h : hostAct a s = .next t) :
    t.waitNotify = false := by
  cases a with
  | reset image =>
    obtain ⟨-, rfl⟩ := hostReset_next h
    rfl
  | setKey k =>
    rw [hostAct_write (by simp)] at h
    cases h
    split
    · obtain ⟨c, -, -, e⟩ | ⟨-, e⟩ := State.setKey_cases k s <;> simp only [State.hostWrite, e] <;> exact hw
    · exact hw
  | _ =>
    rw [hostAct_write (by simp)] at h
    cases h
    split <;> exact hw

/-- The CORE at a boundary (spec/60_exceptions.md R230), case by case: the list is complete. -/
theorem evaluateBoundary_cases {s u : State} (h : evaluateBoundary s = .next u) :
    (s.ended ∧ u = s) ∨
    (s.runState.active = true ∧ s.cancel = true ∧ u = s.terminate .cancelled) ∨
    (s.runState = .running ∧ s.cancel = false ∧ s.pause = true ∧ u = { s with runState := .paused }) ∨
    (s.runState = .paused ∧ s.cancel = false ∧ s.pause = true ∧ u = s) ∨
    (s.runState = .waitingForKey ∧ s.cancel = false ∧ u = s) ∨
    ((s.runState = .running ∨ s.runState = .paused) ∧ s.cancel = false ∧ s.pause = false ∧
      runOrEnd { s with runState := .running } = .next u) := by
  have self : s.runState = .running → { s with runState := RunState.running } = s := by
    intro hr
    rw [← hr]
  unfold evaluateBoundary at h
  unfold State.ended
  cases hr : s.runState <;> cases hc : s.cancel <;> cases hp : s.pause <;> simp_all [RunState.active]

/-- The end-of-program test and the instruction step (R230 (7), (8), R232). -/
theorem runOrEnd_cases {s u : State} (h : runOrEnd s = .next u) :
    (s.progEnd.toNat ≤ s.pc.toNat ∧ u = s.terminate .terminatedNormal) ∨
    (s.pc.toNat < s.progEnd.toNat ∧ instructionStep s = .next u) := by
  unfold runOrEnd at h
  split at h
  · exact .inl ⟨‹_›, by cases h; rfl⟩
  · exact .inr ⟨by omega, h⟩

/-- The instruction step (spec/30_encoding.md R101): decode the word fetched at `PC`, with `PC` advanced. -/
theorem instructionStep_eq (s : State) :
    instructionStep s =
      match decode s.fetch with
      | .ok i => exec i s.advancePc
      | .error _ => .next (s.advancePc.raise .unsupportedInstruction s.fetch) := by
  cases hd : decode s.fetch <;> simp [instructionStep, decodeBytes_hi_lo, hd]

end Sys2Proof.Machine
end

