-- ==== Sys2Proof/Tests/Slice0.lean ====
section
/-!
SUPPORT. Tests of the model against spec/95_test_vectors.md (the vector is named in each comment) and the witnesses of the statements
with hypotheses. Expected values are the spec's, none is the model's own answer.
-/

namespace Sys2Proof.Tests

-- one theorem after another: a thread for each would outgrow the memory a check may use
set_option Elab.async false

open Sys2Proof Sys2Proof.Machine

/-! ### Helpers -/

/-- An answer is a next state with a property. -/
def holds (r : Result) (p : State → Bool) : Bool :=
  match r with
  | .next t => p t
  | .fault _ => false
  | .refused _ => false

/-- One step of the opcode `w` placed at `PC` ends in a state with the property. -/
def ran (s : State) (w : Nat) (p : State → Bool) : Bool := holds (step (s.withFetchWord 16 w)) p

/-- The reset state with two registers set. -/
def with2 (x : Reg) (a : Byte) (y : Reg) (b : Byte) : State := (State.reset.setV x a).setV y b

/-- The reset state with n entries of the stack in use. -/
def withStack (n : Fin 17) : State := { State.reset with sp := n }

/-- The reset state with `I` at 0x300, two registers set and two bytes there (vectors V1 to V11). -/
def sprite (vx vy b0 b1 : Byte) : State :=
  (((with2 0 vx 1 vy).setI 0x300).memWrite 0x300 b0).memWrite 0x301 b1

/-- The reset state with a key in the latch and one register set (vectors K1 to K9). -/
def withKey (key : Option Nat) (x : Reg) (b : Byte) : State := { State.reset.setV x b with key := key }

/-- The instruction `JP 0x200` at 0x200, ready to run (vector C3), and what the host does at the next boundary. -/
def looping (actions : List HostAction) : State :=
  { State.reset.withFetchWord 16 0x1200 with inbox := [actions] }

/-- A state at the default timer rate meets the invariant when the rest of it does: the bounds of the rate are open, so no
evaluation decides them. -/
theorem inv_at_default_rate {s : State} (ht : s.timerRate = Config.timerRateDefault)
    (h : Memory.wf s.mem = true ∧ (s.faultCause = .none ↔ s.runState ≠ .terminatedError) ∧
      (s.endNotified = true ↔ s.ended) ∧ (s.waitNotify = true → s.runState = .waitingForKey) ∧ progEndLegal s.progEnd ∧
      clockLegal s.clockRate) : s.Inv :=
  ⟨h.1, h.2.1, h.2.2.1, h.2.2.2.1, h.2.2.2.2.1, h.2.2.2.2.2, ht ▸ timerLegal_default⟩

/-! ### Well-formedness: each check and a term it refuses (R96, R273) -/

theorem test_ill_formed_group0 : opcodeWellFormed 0x0123#16 = false := by decide
theorem test_ill_formed_group5 : opcodeWellFormed 0x5121#16 = false := by decide
theorem test_ill_formed_group8 : opcodeWellFormed 0x812F#16 = false := by decide
theorem test_ill_formed_group9 : opcodeWellFormed 0x9121#16 = false := by decide
theorem test_ill_formed_groupE : opcodeWellFormed 0xE1FF#16 = false := by decide
theorem test_ill_formed_groupF : opcodeWellFormed 0xF185#16 = false := by decide
theorem test_well_formed_words : ([0x00E0#16, 0x5120#16, 0x812E#16, 0x9120#16, 0xE1A1#16, 0xF165#16].all opcodeWellFormed) = true := by
  decide
/-- S8: 0 bytes and 3585 bytes are rejected, 1 and 3584 accepted. -/
theorem test_image_sizes :
    imageWellFormed [] = false ∧ imageWellFormed [0#8] = true ∧ imageWellFormed (List.replicate 3584 0#8) = true ∧
      imageWellFormed (List.replicate 3585 0#8) = false := by
  refine ⟨by decide, by decide, ?_, ?_⟩ <;> unfold imageWellFormed <;> rw [List.length_replicate] <;> decide

/-! ### Decoding: a word of every row, written out from R95, and section 2.1 -/

theorem test_decode_control :
    decode 0x00E0#16 = .ok .cls ∧ decode 0x00EE#16 = .ok .ret ∧ decode 0x1FFF#16 = .ok (.jp 0xFFF#12) ∧
    decode 0x2300#16 = .ok (.call 0x300#12) ∧ decode 0x332A#16 = .ok (.seByte 3#4 0x2A#8) ∧
    decode 0x432A#16 = .ok (.sneByte 3#4 0x2A#8) ∧ decode 0x5120#16 = .ok (.seReg 1#4 2#4) ∧
    decode 0x9120#16 = .ok (.sneReg 1#4 2#4) ∧ decode 0xB300#16 = .ok (.jpV0 0x300#12) := by
  decide

theorem test_decode_alu :
    decode 0x6A3C#16 = .ok (.ldByte 0xA#4 0x3C#8) ∧ decode 0x7120#16 = .ok (.addByte 1#4 0x20#8) ∧
    decode 0x8120#16 = .ok (.ldReg 1#4 2#4) ∧ decode 0x8121#16 = .ok (.orReg 1#4 2#4) ∧
    decode 0x8122#16 = .ok (.andReg 1#4 2#4) ∧ decode 0x8123#16 = .ok (.xorReg 1#4 2#4) ∧
    decode 0x8124#16 = .ok (.addReg 1#4 2#4) ∧ decode 0x8125#16 = .ok (.sub 1#4 2#4) ∧
    decode 0x8126#16 = .ok (.shr 1#4 2#4) ∧ decode 0x8127#16 = .ok (.subn 1#4 2#4) ∧
    decode 0x812E#16 = .ok (.shl 1#4 2#4) ∧ decode 0xC10F#16 = .ok (.rnd 1#4 0x0F#8) := by
  decide

theorem test_decode_rest :
    decode 0xA2F0#16 = .ok (.ldI 0x2F0#12) ∧ decode 0xD125#16 = .ok (.drw 1#4 2#4 5#4) ∧
    decode 0xE19E#16 = .ok (.skp 1#4) ∧ decode 0xE1A1#16 = .ok (.sknp 1#4) ∧ decode 0xF107#16 = .ok (.ldVxDt 1#4) ∧
    decode 0xF10A#16 = .ok (.ldVxK 1#4) ∧ decode 0xF115#16 = .ok (.ldDtVx 1#4) ∧ decode 0xF118#16 = .ok (.ldStVx 1#4) ∧
    decode 0xF11E#16 = .ok (.addI 1#4) ∧ decode 0xF129#16 = .ok (.ldF 1#4) ∧ decode 0xF133#16 = .ok (.ldB 1#4) ∧
    decode 0xF155#16 = .ok (.ldMemVx 1#4) ∧ decode 0xF165#16 = .ok (.ldVxMem 1#4) := by
  decide

/-- The words that section 2.1 calls unrecognized. -/
theorem test_decode_unrecognized :
    ([0x0000#16, 0x00E1#16, 0x01E0#16, 0x0123#16, 0x0FFF#16].map decode).all (· == .error .group0) = true ∧
    ([0x5121#16, 0x512F#16].map decode).all (· == .error .group5) = true ∧
    ([0x8128#16, 0x8129#16, 0x812A#16, 0x812B#16, 0x812C#16, 0x812D#16, 0x812F#16].map decode).all
      (· == .error .group8) = true ∧
    decode 0x9121#16 = .error .group9 ∧
    ([0xE19F#16, 0xE100#16, 0xE1FF#16].map decode).all (· == .error .groupE) = true ∧
    ([0xF100#16, 0xF101#16, 0xF130#16, 0xF175#16, 0xF185#16, 0xF1FF#16, 0xFFFF#16].map decode).all
      (· == .error .groupF) = true := by
  decide

/-- The table numbers the opcode's own bits, the high byte lies first in memory. -/
theorem test_decode_table_word : decodeTableWord 16 0x6A3C = some (.ldByte 0xA#4 0x3C#8) := by decide

/-- The fetch wrap of section 2.1. -/
theorem test_fetch_wraps :
    ((({ State.reset with pc := 0xFFF }).memWrite 0xFFF 0x12).memWrite 0x000 0x34).fetch = 0x1234#16 := by decide +kernel

/-! ### Control transfer (section 2.2) -/

/-- F1 -/
theorem test_jp : ran State.reset 0x1ABC (fun t => t.pc == 0xABC) = true := by decide +kernel
/-- F5: the pushed address wraps. -/
theorem test_call_wraps :
    ran { withStack 3 with pc := 0xFFE } 0x2300 (fun t => t.stack[3] == 0x000 && t.sp == 4 && t.pc == 0x300) = true := by
  decide +kernel
/-- F6 -/
theorem test_call_overflows :
    ran (withStack 16) 0x2300 (fun t => faultCode t.faultCause == 3 && t.faultInfo == 0x2300 && t.sp == 16 &&
      t.pc == 0x202 && t.runState == .terminatedError) = true := by
  decide +kernel
/-- F7 -/
theorem test_ret :
    ran { withStack 2 with stack := (State.reset.stack.set 0 0x206).set 1 0x40A } 0x00EE
      (fun t => t.pc == 0x40A && t.sp == 1) = true := by
  decide +kernel
/-- F8 -/
theorem test_ret_underflows :
    ran State.reset 0x00EE (fun t => faultCode t.faultCause == 2 && t.faultInfo == 0x00EE && t.pc == 0x202 &&
      t.runState == .terminatedError) = true := by
  decide +kernel
/-- F9 -/
theorem test_se_byte_skips : ran (State.reset.setV 3 0x2A) 0x332A (fun t => t.pc == 0x204) = true := by decide +kernel
/-- F17: a skip taken at the top wraps. -/
theorem test_se_byte_wraps : ran { State.reset with pc := 0xFFC } 0x3000 (fun t => t.pc == 0x000) = true := by decide +kernel
/-- F11 -/
theorem test_sne_byte_stays : ran (State.reset.setV 3 0x2A) 0x432A (fun t => t.pc == 0x202) = true := by decide +kernel
/-- F12 -/
theorem test_sne_byte_skips : ran State.reset 0x432A (fun t => t.pc == 0x204) = true := by decide +kernel
/-- F13 -/
theorem test_se_reg_same : ran (State.reset.setV 4 0x99) 0x5440 (fun t => t.pc == 0x204) = true := by decide +kernel
/-- F15 -/
theorem test_se_reg_stays : ran (with2 1 7 2 8) 0x5120 (fun t => t.pc == 0x202) = true := by decide +kernel
/-- F14 -/
theorem test_sne_reg_same : ran (State.reset.setV 4 0x99) 0x9440 (fun t => t.pc == 0x202) = true := by decide +kernel
/-- F16 -/
theorem test_sne_reg_skips : ran (with2 1 7 2 8) 0x9120 (fun t => t.pc == 0x204) = true := by decide +kernel
/-- F19 -/
theorem test_jp_v0 : ran (State.reset.setV 0 0x10) 0xB300 (fun t => t.pc == 0x310) = true := by decide +kernel
/-- F20 -/
theorem test_jp_v0_wraps : ran (State.reset.setV 0 0x02) 0xBFFF (fun t => t.pc == 0x001) = true := by decide +kernel

/-! ### Load, arithmetic, logic, shift, random (section 2.3) -/

/-- A1 -/
theorem test_ld_byte : ran State.reset 0x6A3C (fun t => t.getV 0xA == 0x3C) = true := by decide +kernel
/-- A2 -/
theorem test_add_byte_no_flag :
    ran (State.reset.setV 1 0xF0) 0x7120 (fun t => t.getV 1 == 0x10 && t.getV vf == 0) = true := by decide +kernel
/-- A3 -/
theorem test_add_byte_vf : ran (State.reset.setV vf 0xFF) 0x7F02 (fun t => t.getV vf == 0x01) = true := by decide +kernel
/-- A4 -/
theorem test_ld_reg : ran (State.reset.setV 2 0x55) 0x8120 (fun t => t.getV 1 == 0x55) = true := by decide +kernel
/-- A4b -/
theorem test_or : ran ((with2 1 0xF0 2 0x0F).setV vf 1) 0x8121 (fun t => t.getV 1 == 0xFF && t.getV vf == 1) = true := by
  decide +kernel
/-- A4c -/
theorem test_and : ran ((with2 1 0xF0 2 0x3C).setV vf 1) 0x8122 (fun t => t.getV 1 == 0x30 && t.getV vf == 1) = true := by
  decide +kernel
/-- A4d -/
theorem test_xor : ran ((with2 1 0xF0 2 0x3C).setV vf 1) 0x8123 (fun t => t.getV 1 == 0xCC && t.getV vf == 1) = true := by
  decide +kernel
/-- A6: the sum 255 is no carry. -/
theorem test_add_255 :
    ran ((with2 1 0x7F 2 0x80).setV vf 1) 0x8124 (fun t => t.getV 1 == 0xFF && t.getV vf == 0) = true := by decide +kernel
/-- A10: the sum 256 is a carry; VF is the second source. -/
theorem test_add_256 :
    ran (with2 1 0xFF vf 0x01) 0x81F4 (fun t => t.getV 1 == 0x00 && t.getV vf == 1) = true := by decide +kernel
/-- A12 -/
theorem test_sub_equal : ran (with2 1 0x20 2 0x20) 0x8125 (fun t => t.getV 1 == 0x00 && t.getV vf == 1) = true := by
  decide +kernel
/-- A13 -/
theorem test_sub_borrow : ran (with2 1 0x00 2 0x01) 0x8125 (fun t => t.getV 1 == 0xFF && t.getV vf == 0) = true := by
  decide +kernel
/-- A14 -/
theorem test_subn : ran (with2 1 0x10 2 0x20) 0x8127 (fun t => t.getV 1 == 0x10 && t.getV vf == 1) = true := by
  decide +kernel
/-- A14b -/
theorem test_subn_borrow : ran (with2 1 0x20 2 0x10) 0x8127 (fun t => t.getV 1 == 0xF0 && t.getV vf == 0) = true := by
  decide +kernel
/-- A15c: in place, `V[y]` has no part. -/
theorem test_shr_in_place :
    ran (with2 1 0x05 2 0xF0) 0x8126 (fun t => t.getV 1 == 0x02 && t.getV vf == 1 && t.getV 2 == 0xF0) = true := by
  decide +kernel
/-- A15d: the flag wins when VF is the destination. -/
theorem test_shr_vf : ran (State.reset.setV vf 0x02) 0x8F06 (fun t => t.getV vf == 0x00) = true := by decide +kernel
/-- A16 -/
theorem test_shl : ran (State.reset.setV 1 0x81) 0x810E (fun t => t.getV 1 == 0x02 && t.getV vf == 1) = true := by
  decide +kernel
/-- A16b -/
theorem test_shl_no_carry :
    ran (with2 1 0x7F vf 1) 0x810E (fun t => t.getV 1 == 0xFE && t.getV vf == 0) = true := by decide +kernel
/-- A18: a mask of 0 gives 0 whatever is drawn. -/
theorem test_rnd_mask_zero : ∃ t, exec (.rnd 1#4 0#8) State.reset = .next t ∧ t.getV 1 = 0#8 :=
  ⟨_, rfl, BitVec.and_zero⟩
/-- A19: a mask of 0xFF gives the draw. -/
theorem test_rnd_mask_full : ∃ t, exec (.rnd 1#4 0xFF#8) State.reset = .next t ∧ t.getV 1 = Config.randomByte 0 :=
  ⟨_, rfl, BitVec.and_allOnes⟩

/-! ### Pixel buffer (section 2.4) -/

/-- V13 -/
theorem test_cls :
    ran { State.reset.setV vf 1 with pb := BitVec.allOnes 2048 } 0x00E0 (fun t => t.pb == 0 && t.getV vf == 1) = true := by
  decide +kernel
/-- V4: the draw at (63, 31) wraps to index 0. -/
theorem test_drw_wraps :
    ran (sprite 63 31 0xFF 0) 0xD011 (fun t => t.pb == BitVec.twoPow 2048 2047 ||| 0x7F && t.getV vf == 0) = true := by
  decide +kernel
/-- V8: a pixel that was on goes off and is a collision. -/
theorem test_drw_collides :
    ran { sprite 0 0 0xC0 0 with pb := 2 } 0xD011 (fun t => t.pb == 1 && t.getV vf == 1) = true := by decide +kernel

/-! ### Keys and timers (section 2.5) -/

/-- K1 -/
theorem test_skp_pressed : ran (withKey (some 113) 2 0x0A) 0xE29E (fun t => t.pc == 0x204) = true := by decide +kernel
/-- K4: the full 8 bits are compared. -/
theorem test_skp_full_width : ran (withKey (some 113) 2 0x1A) 0xE29E (fun t => t.pc == 0x202) = true := by decide +kernel
/-- K5 -/
theorem test_sknp_pressed : ran (withKey (some 113) 2 0x0A) 0xE2A1 (fun t => t.pc == 0x202) = true := by decide +kernel
/-- K6 -/
theorem test_sknp_none : ran (withKey none 2 0x0A) 0xE2A1 (fun t => t.pc == 0x204) = true := by decide +kernel
/-- K8 -/
theorem test_key_load_at_once :
    ran (withKey (some 119) 5 0) 0xF50A (fun t => t.getV 5 == 0x0B && t.runState == .running && t.pc == 0x202 &&
      t.key == some 119) = true := by
  decide +kernel
/-- K9 -/
theorem test_key_load_waits :
    ran State.reset 0xF50A (fun t => t.getV 5 == 0 && t.runState == .waitingForKey && t.waitReg == 5 && t.pc == 0x202 &&
      t.waitNotify) = true := by
  decide +kernel
/-- K10: an unmapped key and none leave the wait, a mapped one ends it. -/
theorem test_key_delivery :
    holds (hostActs [.setKey (some 65), .setKey none] { State.reset with runState := .waitingForKey, waitReg := 5 })
      (fun t => t.runState == .waitingForKey && t.getV 5 == 0) = true ∧
    holds (hostActs [.setKey (some 121)] { State.reset with runState := .waitingForKey, waitReg := 5 })
      (fun t => t.runState == .running && t.getV 5 == 0x0F) = true := by
  decide +kernel
/-- K12 -/
theorem test_ld_vx_dt : holds (exec (.ldVxDt 3#4) { State.reset with dt := 0x1E }) (fun t => t.getV 3 == 0x1E) = true := by
  decide +kernel
/-- K13 -/
theorem test_ld_dt : ran (State.reset.setV 3 0x3C) 0xF315 (fun t => t.dt == 0x3C) = true := by decide +kernel
/-- K14 -/
theorem test_ld_st : ran (State.reset.setV 3 0x05) 0xF318 (fun t => t.st == 0x05) = true := by decide +kernel
/-- T3, T4 -/
theorem test_ticks :
    ({ State.reset with dt := 0xFF, st := 1 }.tick.dt, { State.reset with dt := 0xFF, st := 1 }.tick.st) = (0xFE#8, 0#8) ∧
    (({ State.reset with dt := 2, st := 5 }.ticks 3).dt, ({ State.reset with dt := 2, st := 5 }.ticks 3).st) =
      (0#8, 2#8) := by
  decide +kernel

/-! ### Address register and memory (section 2.6) -/

/-- M1 -/
theorem test_ld_i : ran State.reset 0xA2F0 (fun t => t.i == 0x2F0) = true := by decide +kernel
/-- M3 -/
theorem test_add_i_wraps :
    ran ((State.reset.setV 1 1).setI 0xFFF) 0xF11E (fun t => t.i == 0x000 && t.getV vf == 0) = true := by decide +kernel
/-- M4 -/
theorem test_ld_f : ran (State.reset.setV 1 0x0A) 0xF129 (fun t => t.i == 0x032) = true := by decide +kernel
/-- M4: the full 8 bits. -/
theorem test_ld_f_full_width : ran (State.reset.setV 1 0xFF) 0xF129 (fun t => t.i == 0x4FB) = true := by decide +kernel
/-- M8: digits at the top of memory wrap. -/
theorem test_bcd_wraps :
    ran ((State.reset.setV 2 123).setI 0xFFE) 0xF233 (fun t => t.memRead 0xFFE == 1 && t.memRead 0xFFF == 2 &&
      t.memRead 0x000 == 3) = true := by
  decide +kernel
/-- M7 -/
theorem test_bcd_156 :
    ran ((State.reset.setV 2 156).setI 0x300) 0xF233 (fun t => t.memRead 0x300 == 1 && t.memRead 0x301 == 5 &&
      t.memRead 0x302 == 6) = true := by
  decide +kernel
/-- M9: V0 to Vx inclusive, no more; `I` stays. -/
theorem test_store_regs :
    ran ((((with2 0 0x11 1 0x22).setV 2 0x33).setV 3 0x44).setI 0x400) 0xF255
      (fun t => t.memRead 0x400 == 0x11 && t.memRead 0x401 == 0x22 && t.memRead 0x402 == 0x33 && t.memRead 0x403 == 0 &&
        t.i == 0x400) = true := by
  decide +kernel
/-- M11: over the top, onto a font byte. -/
theorem test_store_regs_wraps :
    ran ((with2 0 0xAA 1 0xBB).setI 0xFFF) 0xF155 (fun t => t.memRead 0xFFF == 0xAA && t.memRead 0x000 == 0xBB) = true := by
  decide +kernel
/-- M13 -/
theorem test_load_regs :
    ran (((((State.reset.setV 3 0x77).setI 0x400).memWrite 0x400 0x11).memWrite 0x401 0x22).memWrite 0x402 0x33) 0xF265
      (fun t => t.getV 0 == 0x11 && t.getV 1 == 0x22 && t.getV 2 == 0x33 && t.getV 3 == 0x77 && t.i == 0x400) = true := by
  decide +kernel

/-! ### Faults and run control (section 2.7) -/

/-- C1 -/
theorem test_unsupported :
    ran State.reset 0x5121 (fun t => faultCode t.faultCause == 1 && t.faultInfo == 0x5121 && t.pc == 0x202 &&
      t.runState == .terminatedError && t.endNotified) = true := by
  decide +kernel
/-- C2 -/
theorem test_pause : holds (step (looping [.pause])) (fun t => t.runState == .paused && t.pc == 0x200) = true := by
  decide +kernel
/-- C3 -/
theorem test_cancel :
    holds (step (looping [.cancel])) (fun t => t.runState == .cancelled && t.endNotified && faultCode t.faultCause == 0) =
      true := by
  decide +kernel
/-- C5 -/
theorem test_end_of_program :
    holds (step { State.reset with pc := 0x20C, progEnd := 0x20C }) (fun t => t.runState == .terminatedNormal &&
      t.pc == 0x20C) = true := by
  decide +kernel
/-- C6: below the program nothing ends the run, the zeros there fault. -/
theorem test_below_program :
    holds (step { State.reset with pc := 0x050, progEnd := 0x20C }) (fun t => faultCode t.faultCause == 1 &&
      t.faultInfo == 0x0000) = true := by
  decide +kernel
/-- C7 -/
theorem test_terminal_ignores_host :
    holds (hostActs [.pause, .resume, .setKey (some 48), .cancel] { State.reset with runState := .terminatedError })
      (fun t => t.runState == .terminatedError && t.key == none && t.cancel == false) = true := by
  decide +kernel
/-- S10: the clock rate clamps at both ends. -/
theorem test_clock_rate :
    holds (hostActs [.clockUp, .clockUp, .clockUp, .clockUp] State.reset) (fun t => t.clockRate == 1000) = true ∧
    holds (hostActs [.clockDown, .clockDown, .clockDown, .clockDown, .clockDown, .clockDown] State.reset)
      (fun t => t.clockRate == 200) = true := by
  decide +kernel
/-- S8: what a load of one byte gives. -/
theorem test_launch_one_byte :
    holds (launch defaultParams [0x6A#8]) (fun t => t.progEnd == 0x201 && t.memRead 0x200 == 0x6A && t.memRead 0x000 == 0xF0) =
      true := by
  decide +kernel

/-! ### Witnesses: concrete states and operands that meet the hypotheses of a statement -/

theorem witness_DecodeOfEncodeIsIdentity : (Instr.drw 0xF#4 0x0#4 0x9#4).wellFormed = true := by decide

theorem witness_EncodeOfDecodeIsIdentity : decode 0x8126#16 = .ok (.shr 1#4 2#4) := by decide

theorem witness_StepRunsDecodedInstruction :
    (looping []).runsNext ∧ (Instr.jp 0x200#12).wellFormed = true ∧
      decodeBytes ((looping []).memRead (looping []).pc) ((looping []).memRead ((looping []).pc + 1#12)) = .ok (.jp 0x200#12) := by
  decide +kernel

theorem witness_UnrecognizedOpcodeTakesFault :
    (State.reset.withFetchWord 16 0x5121).runsNext ∧
      decodeBytes ((State.reset.withFetchWord 16 0x5121).memRead 0x200) ((State.reset.withFetchWord 16 0x5121).memRead 0x201) =
        .error .group5 := by
  decide +kernel

/-- The clauses of the flag writers for a destination other than VF, and the two values where the flag turns. -/
theorem witness_AddRegistersSetsCarry :
    (0xE#4 : Reg) ≠ vf ∧ ¬ 255 < ((with2 1 0x7F 2 0x80).getV 1).toNat + ((with2 1 0x7F 2 0x80).getV 2).toNat ∧
      255 < ((with2 1 0xFF 2 0x01).getV 1).toNat + ((with2 1 0xFF 2 0x01).getV 2).toNat := by
  decide +kernel

theorem witness_SubtractSetsNotBorrow :
    (0xE#4 : Reg) ≠ vf ∧ ((with2 1 0x20 2 0x20).getV 2).toNat ≤ ((with2 1 0x20 2 0x20).getV 1).toNat ∧
      ¬ ((with2 1 0x00 2 0x01).getV 2).toNat ≤ ((with2 1 0x00 2 0x01).getV 1).toNat := by
  decide +kernel

theorem witness_ShiftSetsBitShiftedOut : (0xE#4 : Reg) ≠ vf := by decide

theorem witness_SameRegisterAsBothOperands : (0x0#4 : Reg) ≠ vf := by decide

theorem witness_CallPushesOrOverflows :
    (withStack 0).sp.val < 16 ∧ (withStack 15).sp.val < 16 ∧ (withStack 16).sp.val = 16 := by decide

theorem witness_ReturnPopsOrUnderflows :
    0 < (withStack 1).sp.val ∧ 0 < (withStack 16).sp.val ∧ (withStack 0).sp.val = 0 := by decide

theorem witness_ReturnUndoesCall : (withStack 15).sp.val < 16 := by decide

theorem witness_SkipOnByte :
    (State.reset.setV 3 0x2A).getV 3 = 0x2A#8 ∧ State.reset.getV 3 ≠ 0x2A#8 := by decide +kernel

theorem witness_SkipOnRegisters :
    (with2 1 7 2 7).getV 1 = (with2 1 7 2 7).getV 2 ∧ (with2 1 7 2 8).getV 1 ≠ (with2 1 7 2 8).getV 2 := by decide +kernel

theorem witness_SkipOnKey_pressed :
    ∃ h c, (withKey (some 113) 2 0x0A).key = some h ∧ keyMap (withKey (some 113) 2 0x0A).params h = some c ∧
      c.toNat = ((withKey (some 113) 2 0x0A).getV 2).toNat :=
  ⟨113, 10#4, by decide +kernel⟩

theorem witness_SkipOnKey_not_pressed :
    ¬ ∃ h c, (withKey none 2 0x0A).key = some h ∧ keyMap (withKey none 2 0x0A).params h = some c ∧
      c.toNat = ((withKey none 2 0x0A).getV 2).toNat := by
  rintro ⟨h, c, hk, -⟩
  cases hk

theorem witness_KeyMapIsLeastTableEntry :
    defaultParams.keymapRaw = false ∧ { defaultParams with keymapRaw := true }.keymapRaw = true ∧
      (∀ c : BitVec 4, defaultParams.keymapTable[c.toNat]'c.isLt ≠ 65) := by
  decide +kernel

theorem witness_KeyLoadTakesKeyOrWaits_key :
    (withKey (some 119) 5 0).key = some 119 ∧ keyMap (withKey (some 119) 5 0).params 119 = some 0xB#4 := by decide +kernel

theorem witness_KeyLoadTakesKeyOrWaits_unmapped :
    ∀ h, (withKey (some 65) 5 0).key = some h → keyMap (withKey (some 65) 5 0).params h = none := by
  intro h hk
  cases hk
  decide +kernel

theorem witness_KeyLoadTakesKeyOrWaits_none :
    ∀ h, State.reset.key = some h → keyMap State.reset.params h = none := by
  intro h hk
  cases hk

theorem witness_KeyDeliveryWakesExactlyMatching :
    { State.reset with runState := .waitingForKey }.runState = .waitingForKey ∧
      keyMap State.reset.params 121 = some 0xF#4 ∧ keyMap State.reset.params 65 = none := by
  decide +kernel

theorem witness_BoundaryTicksAreFree :
    State.reset.runState.active = true ∧ { State.reset with runState := .cancelled }.ended := by decide

/-- Registers 0 and x are stored or loaded, x + 1 is not; an address before and one after the stored bytes. -/
theorem witness_RegistersStored :
    (0#4 : Reg) ≤ 2#4 ∧ (2#4 : Reg) ≤ 2#4 ∧ (∀ k, k < 3 → (0x403#12 : Addr) ≠ (State.reset.setI 0x400).ea k) ∧
      ∀ k, k < 3 → (0x3FF#12 : Addr) ≠ (State.reset.setI 0x400).ea k := by
  decide +kernel

theorem witness_RegistersLoaded : (2#4 : Reg) ≤ 2#4 ∧ (2#4 : Reg) < 3#4 := by decide

theorem witness_DecimalDigitsStored :
    (∀ k, k < 3 → (0x001#12 : Addr) ≠ (State.reset.setI 0xFFE).ea k) ∧
      ∀ k, k < 3 → (0xFFD#12 : Addr) ≠ (State.reset.setI 0xFFE).ea k := by
  decide +kernel

/-- A state that holds the memory of the store and other registers. -/
theorem witness_LoadUndoesStore :
    ∃ t u : State, exec (.ldMemVx 1#4) (with2 0 0x11 1 0x22) = .next t ∧ u.i = (with2 0 0x11 1 0x22).i ∧ u.mem = t.mem ∧
      u.getV 1 = 0#8 :=
  ⟨_, { State.reset with mem := (storeRegs 2 (with2 0 0x11 1 0x22)).mem }, rfl, rfl, rfl, by decide +kernel⟩

/-- A sprite of one row at (63, 31): column 0 lands on 2047, column 1 on 0. -/
theorem witness_DrawFlipsSpritePixels_under :
    (sprite 63 31 0xC0 0).underSprite 0 1 1 2047 ∧ (sprite 63 31 0xC0 0).underSprite 0 1 1 0 :=
  ⟨⟨0, 0, by decide +kernel⟩, ⟨0, 1, by decide +kernel⟩⟩

theorem witness_DrawFlipsSpritePixels_outside : ¬ (sprite 63 31 0xC0 0).underSprite 0 1 0 2047 := by
  rintro ⟨row, col, h, -⟩
  exact absurd h (Nat.not_lt_zero row)

theorem witness_DrawFlipsSpritePixels_collision :
    ∃ k, k < 2048 ∧ { sprite 0 0 0xC0 0 with pb := 2 }.underSprite 0 1 1 k ∧
      { sprite 0 0 0xC0 0 with pb := 2 }.pixel k = true :=
  ⟨1, by decide, ⟨0, 1, by decide +kernel⟩, by decide +kernel⟩

theorem witness_DrawFlipsSpritePixels_no_collision :
    ∀ k, k < 2048 → (sprite 0 0 0xC0 0).underSprite 0 1 1 k → (sprite 0 0 0xC0 0).pixel k = false := by
  intro k _ _
  simp [State.pixel, sprite, with2, State.setI, State.setV, State.memWrite, State.reset]

theorem witness_DrawTwiceRestores :
    (0#4 : Reg) ≠ vf ∧ (1#4 : Reg) ≠ vf ∧
      (∃ k, k < 2048 ∧ (sprite 0 0 0x80 0).underSprite 0 1 1 k ∧ (sprite 0 0 0x80 0).pixel k = false) ∧
      ∀ k, k < 2048 → { sprite 0 0 0x80 0 with pb := BitVec.allOnes 2048 }.underSprite 0 1 1 k →
        { sprite 0 0 0x80 0 with pb := BitVec.allOnes 2048 }.pixel k = true := by
  refine ⟨by decide, by decide, ⟨0, by decide, ⟨0, 0, by decide +kernel⟩, by decide +kernel⟩, fun k hk _ => ?_⟩
  exact (congrArg (BitVec.getLsbD (BitVec.allOnes 2048)) (Nat.mod_eq_of_lt hk)).trans (by rw [BitVec.getLsbD_allOnes]; exact decide_eq_true hk)

theorem witness_OnlyClsAndDrwWritePixels :
    ∃ t, exec .cls { State.reset with pb := 1 } = .next t ∧ t.pb ≠ { State.reset with pb := 1 }.pb :=
  ⟨_, rfl, by decide +kernel⟩

theorem witness_OnlyTwoInstructionsStore :
    ∃ t, exec (.ldB 1#4) ((State.reset.setV 1 255).setI 0x300) = .next t ∧
      t.memRead 0x300 ≠ ((State.reset.setV 1 255).setI 0x300).memRead 0x300 :=
  ⟨_, rfl, by decide +kernel⟩

theorem witness_OnlyControlTransfersChangePc : ∃ t, exec (.jp 0xABC#12) State.reset = .next t ∧ t.pc ≠ State.reset.pc :=
  ⟨_, rfl, by decide +kernel⟩

theorem witness_OnlyCallAndRetReachStack_call :
    ∃ t, exec (.call 0x300#12) (withStack 15) = .next t ∧ t.sp.val = (withStack 15).sp.val + 1 ∧ t.stack ≠ (withStack 15).stack :=
  ⟨_, rfl, by decide +kernel, by decide +kernel⟩

theorem witness_OnlyCallAndRetReachStack_ret :
    ∃ t, exec .ret (withStack 1) = .next t ∧ t.sp.val + 1 = (withStack 1).sp.val :=
  ⟨_, rfl, by decide +kernel⟩

theorem witness_WritersOfAddressRegisterAndTimers :
    (∃ t, exec (.ldI 0x2F0#12) State.reset = .next t ∧ t.i ≠ State.reset.i) ∧
    (∃ t, exec (.ldDtVx 3#4) (State.reset.setV 3 1) = .next t ∧ t.dt ≠ (State.reset.setV 3 1).dt) ∧
    ∃ t, exec (.ldStVx 3#4) (State.reset.setV 3 1) = .next t ∧ t.st ≠ (State.reset.setV 3 1).st :=
  ⟨⟨_, rfl, by decide +kernel⟩, ⟨_, rfl, by decide +kernel⟩, ⟨_, rfl, by decide +kernel⟩⟩

theorem witness_OnlyDestinationsAndFlagChange :
    ∃ t, exec (.addReg 1#4 2#4) (with2 1 0xFF 2 0x01) = .next t ∧ t.getV vf ≠ (with2 1 0xFF 2 0x01).getV vf :=
  ⟨_, rfl, by decide +kernel⟩

theorem witness_ProgramCannotReachRunControl :
    (∃ t, exec .ret (withStack 0) = .next t ∧ t.runState ≠ (withStack 0).runState) ∧
    (∃ t, exec (.call 0x300#12) (withStack 16) = .next t ∧ t.faultCause ≠ (withStack 16).faultCause) ∧
    ∃ t, exec (.ldVxK 5#4) State.reset = .next t ∧ t.waitNotify ≠ State.reset.waitNotify :=
  ⟨⟨_, rfl, by decide +kernel⟩, ⟨_, rfl, by decide +kernel⟩, ⟨_, rfl, by decide +kernel⟩⟩

/-- The conditions of the two faults and of the wait. -/
theorem witness_ProgramCannotReachRunControl_conditions :
    (withStack 0).sp.val = 0 ∧ (withStack 16).sp.val = 16 ∧
      ∀ h, State.reset.key = some h → keyMap State.reset.params h = none := by
  refine ⟨by decide, by decide, fun h hk => ?_⟩
  cases hk

/-- A quiet boundary in each of the cases, `PC` one before `PROG_END` and at it. -/
theorem witness_BoundaryChecksInOrder :
    (looping []).hostQuiet ∧ { looping [] with runState := .cancelled }.ended ∧ { looping [] with cancel := true }.cancel = true ∧
      { looping [] with runState := .waitingForKey }.runState = .waitingForKey ∧ { looping [] with pause := true }.pause = true ∧
      ¬ { looping [] with pc := 0x201 }.progEnd.toNat ≤ 0x201 ∧ { looping [] with pc := 0x202 }.progEnd.toNat ≤ 0x202 := by
  decide +kernel

theorem witness_CancelEndsRunWithinOneStep :
    (looping [.cancel]).runState.active = true ∧ (looping [.cancel]).inbox.headD [] = [.cancel] := by decide +kernel

theorem witness_PauseStopsAndResumeContinues :
    (looping [.pause]).cancel = false ∧ (looping [.pause]).runState = .running ∧
      (looping [.pause]).inbox.headD [] = [.pause] ∧ { looping [.resume] with runState := .paused }.runState = .paused ∧
      (looping [.resume]).inbox.headD [] = [.resume] ∧
      { looping [.pause] with runState := .waitingForKey }.runState = .waitingForKey := by
  decide +kernel

theorem witness_EndedRunDoesNotChange :
    { looping [.cancel] with runState := .terminatedError }.ended ∧ (looping [.cancel]).noReset := by
  refine ⟨by decide +kernel, fun image h => ?_⟩
  simp [looping] at h

theorem witness_RunStateTransitionsAreTheListed :
    (∃ t, evaluateBoundary { State.reset with runState := .cancelled } = .next t) ∧
    (∃ t, evaluateBoundary { State.reset with runState := .waitingForKey } = .next t) ∧
    (∃ t, evaluateBoundary { State.reset with pause := true } = .next t ∧ t.runState = .paused) ∧
    (∃ t, evaluateBoundary { State.reset with runState := .paused } = .next t ∧ t.runState = .terminatedNormal) ∧
    ∃ t, hostAct (.setKey (some 48)) { State.reset with runState := .waitingForKey } = .next t ∧
      t.runState ≠ { State.reset with runState := .waitingForKey }.runState :=
  ⟨⟨_, rfl⟩, ⟨_, rfl⟩, ⟨_, rfl, rfl⟩, ⟨_, rfl, rfl⟩, ⟨_, rfl, by decide +kernel⟩⟩

theorem witness_NotificationsAreEmittedOnce_running :
    (State.reset.withFetchWord 16 0xF50A).Inv ∧ (State.reset.withFetchWord 16 0xF50A).noReset ∧
      (State.reset.withFetchWord 16 0xF50A).endNotified = false ∧
      ∃ t, step (State.reset.withFetchWord 16 0xF50A) = .next t ∧ t.waitNotify = true := by
  refine ⟨inv_at_default_rate rfl (by decide +kernel), fun image h => ?_, by decide +kernel, ⟨_, rfl, by decide +kernel⟩⟩
  simp [State.withFetchWord, placeOpcode] at h

theorem witness_NotificationsAreEmittedOnce_ended :
    { looping [.pause] with runState := .cancelled, endNotified := true }.Inv ∧
      { looping [.pause] with runState := .cancelled, endNotified := true }.noReset ∧
      ∃ t, step { looping [.pause] with runState := .cancelled, endNotified := true } = .next t := by
  refine ⟨inv_at_default_rate rfl (by decide +kernel), fun image h => ?_, ⟨_, rfl⟩⟩
  simp [looping] at h

theorem witness_StepKeepsInvariant : (looping [.cancel]).Inv ∧ ∃ t, step (looping [.cancel]) = .next t :=
  ⟨inv_at_default_rate rfl (by decide +kernel), ⟨_, rfl⟩⟩

theorem witness_HostActionsReachOnlyTheirFields :
    (∀ image, HostAction.setKey (some 48) ≠ .reset image) ∧
    (∃ t, hostAct (.setKey (some 49)) { State.reset with runState := .waitingForKey } = .next t ∧ t.v ≠ State.reset.v ∧
      t.key ≠ State.reset.key) ∧
    (∃ t, hostAct .pause State.reset = .next t ∧ t.pause ≠ State.reset.pause) ∧
    ∃ t, hostAct .cancel State.reset = .next t ∧ t.cancel ≠ State.reset.cancel :=
  ⟨by simp, ⟨_, rfl, by decide +kernel, by decide +kernel⟩, ⟨_, rfl, by decide +kernel⟩, ⟨_, rfl, by decide +kernel⟩⟩

/-- An active state that does not wait for a key. -/
theorem witness_HostActionsReachOnlyTheirFields_writes :
    { State.reset with runState := .paused }.runState.active = true ∧
      { State.reset with runState := .paused }.runState ≠ .waitingForKey := by
  decide

theorem witness_HostActionsReachOnlyTheirFields_wake :
    ∃ t, hostAct (.setKey (some 49)) { State.reset with runState := .waitingForKey } = .next t ∧ t.runState ≠ .waitingForKey :=
  ⟨_, rfl, by decide +kernel⟩

/-- The rates: the clock from its default, the timer from one above its open upper bound, which the clamp takes away. -/
theorem witness_HostActionsReachOnlyTheirFields_rates :
    (∃ t, hostAct .clockUp State.reset = .next t ∧ t.clockRate ≠ State.reset.clockRate) ∧
    ∃ t, hostAct .timerUp { State.reset with timerRate := Config.timerRateMax + 1 } = .next t ∧
      t.timerRate ≠ Config.timerRateMax + 1 :=
  ⟨⟨_, rfl, by decide +kernel⟩, ⟨_, rfl, Nat.ne_of_lt (Nat.lt_succ_of_le (timerLegal_clampTimerRate _).2)⟩⟩

theorem witness_RateRequestsClamp :
    State.reset.runState.active = true ∧ clockLegal State.reset.clockRate ∧ clockLegal 200 ∧ clockLegal 1000 := by
  decide +kernel

theorem witness_LaunchLoadsProgramAndFont :
    (1 ≤ [0#8].length ∧ [0#8].length ≤ 3584) ∧
      (1 ≤ (List.replicate 3584 (0#8 : Byte)).length ∧ (List.replicate 3584 (0#8 : Byte)).length ≤ 3584) ∧
      ([] : List Byte).length = 0 ∧ 3584 < (List.replicate 3585 (0#8 : Byte)).length := by
  simp only [List.length_replicate]
  decide

theorem witness_HostResetDiscardsInstance :
    1 ≤ [0x12#8, 0x00#8].length ∧ [0x12#8, 0x00#8].length ≤ 3584 ∧ ([] : List Byte).length = 0 := by decide

/-- A schedule whose first action answers a state, one that waits for a key at it, and one whose first action stops. -/
theorem witness_HostActionsArriveInOrder :
    (looping [.pause, .cancel]).inbox = [.pause, .cancel] :: [] ∧
    (∃ t, hostAct .pause { looping [.pause, .cancel] with waitNotify := false } = .next t) ∧
    (∃ t, hostAct (.setKey (some 48)) { looping [.setKey (some 48)] with runState := .waitingForKey, waitNotify := false } =
      .next t) ∧
    hostAct (.reset []) { looping [.reset []] with waitNotify := false } = .fault (.startupError 0) :=
  ⟨rfl, ⟨_, rfl⟩, ⟨_, rfl⟩, rfl⟩

end Sys2Proof.Tests
end

section
/-!
SUPPORT. What instructions leave unchanged: the run-control registers and what the host owns (`Control`), and memory.
One equation per operation, then one inversion lemma over the instruction set for each of the two.
-/

namespace Sys2Proof.Machine

/-- The part of a state that is not a program's data: the run-control registers, the records, what the host and the model own
(R31 to R38, R102). -/
structure Control where
  key : Option Nat
  runState : RunState
  waitReg : Reg
  progEnd : BitVec 13
  faultCause : FaultCause
  faultInfo : Opcode
  pause : Bool
  cancel : Bool
  clockRate : Nat
  timerRate : Nat
  endNotified : Bool
  waitNotify : Bool
  params : Params
  inbox : List (List HostAction)
  boundary : Nat

/-- The control part of a state. -/
def State.control (s : State) : Control where
  key := s.key
  runState := s.runState
  waitReg := s.waitReg
  progEnd := s.progEnd
  faultCause := s.faultCause
  faultInfo := s.faultInfo
  pause := s.pause
  cancel := s.cancel
  clockRate := s.clockRate
  timerRate := s.timerRate
  endNotified := s.endNotified
  waitNotify := s.waitNotify
  params := s.params
  inbox := s.inbox
  boundary := s.boundary

/-! ### The operations on data -/

section
variable (s : State)

@[simp] theorem State.control_setV (x : Reg) (b : Byte) : (s.setV x b).control = s.control := rfl
@[simp] theorem State.control_setI (a : Addr) : (s.setI a).control = s.control := rfl
@[simp] theorem State.control_setPc (a : Addr) : (s.setPc a).control = s.control := rfl
@[simp] theorem State.control_advancePc : s.advancePc.control = s.control := rfl
@[simp] theorem State.control_skipIf (c : Bool) : (s.skipIf c).control = s.control := by cases c <;> rfl
@[simp] theorem State.control_setDt (b : Byte) : (s.setDt b).control = s.control := rfl
@[simp] theorem State.control_setSt (b : Byte) : (s.setSt b).control = s.control := rfl
@[simp] theorem State.control_memWrite (a : Addr) (b : Byte) : (s.memWrite a b).control = s.control := rfl
@[simp] theorem State.control_setPixel (k : Nat) (b : Bool) : (s.setPixel k b).control = s.control := rfl
@[simp] theorem State.control_clearPixels : s.clearPixels.control = s.control := rfl
@[simp] theorem State.control_setFlag (f : Bool) : (s.setFlag f).control = s.control := rfl
@[simp] theorem State.control_writeResultThenFlag (x : Reg) (b : Byte) (f : Bool) :
    (s.writeResultThenFlag x b f).control = s.control := rfl

end

theorem State.push_frame {s t : State} {a : Addr} (h : s.push a = some t) : t.control = s.control ∧ t.mem = s.mem := by
  obtain ⟨_, rfl⟩ := State.push_spec h
  exact ⟨rfl, rfl⟩

theorem State.pop_frame {s t : State} {a : Addr} (h : s.pop = some (a, t)) : t.control = s.control ∧ t.mem = s.mem := by
  obtain ⟨_, _, rfl⟩ := State.pop_spec h
  exact ⟨rfl, rfl⟩

/-! ### The loops -/

/-- A loop keeps every observation that each of its passes keeps. -/
theorem forEach_keeps {α : Type} (f : State → α) {body : Nat → State → State} (hb : ∀ k t, f (body k t) = f t) (n : Nat)
    (s : State) : f (forEach n body s) = f s :=
  forEach_induct (P := fun _ t => f t = f s) rfl fun k t _ ht => (hb k t).trans ht

@[simp] theorem control_drawPixel (k : Nat) (bit : Bool) (s : State) : (drawPixel k bit s).control = s.control := by
  unfold drawPixel
  dsimp only
  split <;> rfl

@[simp] theorem mem_drawPixel (k : Nat) (bit : Bool) (s : State) : (drawPixel k bit s).mem = s.mem := by
  unfold drawPixel
  dsimp only
  split <;> rfl

@[simp] theorem control_drawRow (ox oy : Byte) (row : Nat) (s : State) : (drawRow ox oy row s).control = s.control := by
  simp only [drawRow]
  exact forEach_keeps State.control (by simp) 8 s

@[simp] theorem mem_drawRow (ox oy : Byte) (row : Nat) (s : State) : (drawRow ox oy row s).mem = s.mem := by
  simp only [drawRow]
  exact forEach_keeps State.mem (by simp) 8 s

@[simp] theorem control_storeRegs (n : Nat) (s : State) : (storeRegs n s).control = s.control :=
  forEach_keeps State.control (by simp) n s

@[simp] theorem control_loadRegs (n : Nat) (s : State) : (loadRegs n s).control = s.control :=
  forEach_keeps State.control (by simp) n s

@[simp] theorem mem_loadRegs (n : Nat) (s : State) : (loadRegs n s).mem = s.mem :=
  forEach_keeps State.mem (by simp) n s

/-- The stores of `LD [I], Vx` keep the canonical form of memory. -/
theorem storeRegs_wf {s : State} (h : Memory.wf s.mem = true) (n : Nat) : Memory.wf (storeRegs n s).mem = true :=
  forEach_induct (P := fun _ t => Memory.wf t.mem = true) h fun _ _ _ ht => State.memWrite_wf ht _ _

/-! ### The three instructions with two outcomes -/

/-- `RET`: the popped address, or the fault of an empty stack (R120, R222). -/
theorem execRet_cases {s t : State} (h : execRet s = .next t) :
    (∃ a u, s.pop = some (a, u) ∧ t = u.setPc a) ∨ (s.sp.val = 0 ∧ t = s.raise .stackUnderflow (encode .ret)) := by
  unfold execRet at h
  split at h <;> cases h
  · exact .inl ⟨_, _, ‹_›, rfl⟩
  · exact .inr ⟨s.pop_none.1 ‹_›, rfl⟩

/-- `CALL`: the pushed return address, or the fault of a full stack (R122, R223). -/
theorem execCall_cases {a : Addr} {s t : State} (h : execCall a s = .next t) :
    (∃ u, s.push s.pc = some u ∧ t = u.setPc a) ∨ (s.sp.val = 16 ∧ t = s.raise .stackOverflow (encode (.call a))) := by
  unfold execCall at h
  split at h <;> cases h
  · exact .inl ⟨_, ‹_›, rfl⟩
  · exact .inr ⟨(s.push_none _).1 ‹_›, rfl⟩

/-- `LD Vx, K`: the code of the key in the latch, or the wait (R183). -/
theorem execLdVxK_cases {x : Reg} {s t : State} (h : execLdVxK x s = .next t) :
    (∃ c, s.pressedCode = some c ∧ t = s.setV x (c.setWidth 8)) ∨ (s.pressedCode = none ∧ t = s.waitForKey x) := by
  unfold execLdVxK at h
  split at h <;> cases h
  · exact .inl ⟨_, ‹_›, rfl⟩
  · exact .inr ⟨‹_›, rfl⟩

/-! ### The whole instruction set -/

/-- What an instruction does to the control part of the state: nothing, or the wait of `LD Vx, K` with no matching key, or one of
the two stack faults (R183, R222, R223). -/
theorem exec_control_cases {i : Instr} {s t : State} (h : exec i s = .next t) :
    t.control = s.control ∨
    (∃ x, i = .ldVxK x ∧ s.pressedCode = none ∧ t = s.waitForKey x) ∨
    (i = .ret ∧ s.sp.val = 0 ∧ t = s.raise .stackUnderflow (encode .ret)) ∨
    (∃ a, i = .call a ∧ s.sp.val = 16 ∧ t = s.raise .stackOverflow (encode (.call a))) := by
  cases i with
  | ret =>
    obtain ⟨a, u, hpop, rfl⟩ | ⟨hsp, rfl⟩ := execRet_cases h
    · exact .inl (State.pop_frame hpop).1
    · exact .inr (.inr (.inl ⟨rfl, hsp, rfl⟩))
  | call a =>
    obtain ⟨u, hpush, rfl⟩ | ⟨hsp, rfl⟩ := execCall_cases h
    · exact .inl (State.push_frame hpush).1
    · exact .inr (.inr (.inr ⟨a, rfl, hsp, rfl⟩))
  | ldVxK x =>
    obtain ⟨c, -, rfl⟩ | ⟨hnone, rfl⟩ := execLdVxK_cases h
    · exact .inl rfl
    · exact .inr (.inl ⟨x, rfl, hnone, rfl⟩)
  | drw x y n =>
    cases h
    exact .inl (forEach_keeps State.control (control_drawRow _ _) _ _)
  | rnd x kk =>
    cases h
    exact .inl rfl
  | _ =>
    cases h
    exact .inl (by simp)

/-- Only the two storing instructions write memory (R60, R39). -/
theorem exec_mem_cases {i : Instr} {s t : State} (h : exec i s = .next t) :
    t.mem = s.mem ∨ (∃ x, i = .ldB x) ∨ ∃ x, i = .ldMemVx x := by
  cases i with
  | ldB x => exact .inr (.inl ⟨x, rfl⟩)
  | ldMemVx x => exact .inr (.inr ⟨x, rfl⟩)
  | ret =>
    obtain ⟨a, u, hpop, rfl⟩ | ⟨-, rfl⟩ := execRet_cases h
    · exact .inl (State.pop_frame hpop).2
    · exact .inl rfl
  | call a =>
    obtain ⟨u, hpush, rfl⟩ | ⟨-, rfl⟩ := execCall_cases h
    · exact .inl (State.push_frame hpush).2
    · exact .inl rfl
  | ldVxK x =>
    obtain ⟨c, -, rfl⟩ | ⟨-, rfl⟩ := execLdVxK_cases h <;> exact .inl rfl
  | drw x y n =>
    cases h
    exact .inl (forEach_keeps State.mem (mem_drawRow _ _) _ _)
  | rnd x kk =>
    cases h
    exact .inl rfl
  | _ =>
    cases h
    exact .inl (by simp)

/-- Every instruction keeps the canonical form of memory. -/
theorem exec_keeps_wf {i : Instr} {s t : State} (hm : Memory.wf s.mem = true) (h : exec i s = .next t) :
    Memory.wf t.mem = true := by
  obtain e | ⟨x, rfl⟩ | ⟨x, rfl⟩ := exec_mem_cases h
  · rwa [e]
  · cases h
    exact State.memWrite_wf (State.memWrite_wf (State.memWrite_wf hm _ _) _ _) _ _
  · cases h
    exact storeRegs_wf hm _

end Sys2Proof.Machine
end

section
/-!
The invariant of the machine (O54): each write of the run-control registers keeps it, and so does each part of a step. What
arrives at a boundary also ends the pulse of the last step (R236), and it is this stronger fact, the invariant with no pulse,
that the CORE starts from.
-/

namespace Sys2Proof.Machine

/-! ### The writes of the run-control registers -/

section
variable {s t : State}

/-- With the control part unchanged, the canonical form of memory is all that is left of the invariant. -/
theorem State.Inv.of_control (h : s.Inv) (hc : t.control = s.control) (hm : Memory.wf t.mem = true) : t.Inv := by
  obtain ⟨-, hrest⟩ := h
  simp only [State.control, Control.mk.injEq] at hc
  obtain ⟨-, hrun, -, hend, hcause, -, -, -, hclock, htimer, hended, hpulse, -⟩ := hc
  simp only [State.Inv, State.ended, hrun, hend, hcause, hclock, htimer, hended, hpulse]
  exact ⟨hm, hrest⟩

/-- A run that has not ended has no fault on record and has emitted no end notification. -/
theorem State.Inv.of_active (h : s.Inv) (hs : s.runState.active = true) :
    s.faultCause = .none ∧ s.endNotified = false := by
  obtain ⟨-, hfault, hended, -⟩ := h
  refine ⟨hfault.2 fun e => by simp [e, RunState.active] at hs, ?_⟩
  simpa [hs] using hended

/-- Outside a pulse, a move between active states keeps the invariant. -/
theorem State.Inv.setRunState (h : s.Inv) (hw : s.waitNotify = false) (hs : s.runState.active = true) {r : RunState}
    (hr : r.active = true) : State.Inv { s with runState := r } := by
  obtain ⟨hcause, hended⟩ := h.of_active hs
  obtain ⟨hmem, -, -, -, hranges⟩ := h
  refine ⟨hmem, ⟨fun _ e => ?_, fun _ => hcause⟩, by simp [State.ended, hended, hr], by simp [hw], hranges⟩
  simp [show r = .terminatedError from e, RunState.active] at hr

/-- Outside a pulse, ending a run without a fault keeps the invariant. -/
theorem State.Inv.terminate (h : s.Inv) (hw : s.waitNotify = false) (hs : s.runState.active = true) {r : RunState}
    (hr : r.active = false) (hne : r ≠ .terminatedError) : (s.terminate r).Inv := by
  obtain ⟨hcause, -⟩ := h.of_active hs
  obtain ⟨hmem, -, -, -, hranges⟩ := h
  exact ⟨hmem, by simp [hcause, hne], by simp [State.ended, hr], by simp [hw], hranges⟩

/-- Outside a pulse, fault entry keeps the invariant. -/
theorem State.Inv.raise (h : s.Inv) (hw : s.waitNotify = false) {c : FaultCause} (hc : c ≠ .none) (w : Opcode) :
    (s.raise c w).Inv := by
  obtain ⟨hmem, -, -, -, hranges⟩ := h
  exact ⟨hmem, by simp [hc], by simp [State.ended, RunState.active], by simp [hw], hranges⟩

/-- Entering the key wait from an active state keeps the invariant. -/
theorem State.Inv.waitForKey (h : s.Inv) (hs : s.runState.active = true) (x : Reg) : (s.waitForKey x).Inv := by
  obtain ⟨hcause, hended⟩ := h.of_active hs
  obtain ⟨hmem, -, -, -, hranges⟩ := h
  exact ⟨hmem, by simp [hcause], by simp [State.ended, RunState.active, hended], by simp, hranges⟩

end

/-! ### The host -/

theorem clockLegal_clockUp {r : Nat} (h : clockLegal r) : clockLegal (clockUp r) := by
  simp only [clockLegal, clockUp, Config.clockRateStep, Config.clockRateMax] at *
  omega

theorem clockLegal_clockDown {r : Nat} (h : clockLegal r) : clockLegal (clockDown r) := by
  simp only [clockLegal, clockDown, Config.clockRateStep, Config.clockRateMin] at *
  omega

/-- The rate after a host reset is one of the nine legal ones. -/
theorem clockLegal_ofIndex (k : Fin 9) : clockLegal (Config.clockRateMin + Config.clockRateStep * k.val) := by
  simp only [clockLegal, Config.clockRateMin, Config.clockRateStep]
  omega

/-- An image of a legal size leaves `PROG_END` in its range (R34, R273). -/
theorem progEndLegal_of_imageWellFormed {image : List Byte} (h : imageWellFormed image = true) :
    progEndLegal (BitVec.ofNat 13 (Config.progBase + image.length)) := by
  simp only [imageWellFormed, Bool.and_eq_true, decide_eq_true_eq, Config.progMaxBytes] at h
  simp only [progEndLegal, BitVec.toNat_ofNat, Config.progBase]
  omega

/-- The invariant with no `WAIT_NOTIFY` pulse: what holds from the host's first action of a boundary until the CORE. -/
def State.InvNoPulse (s : State) : Prop := s.Inv ∧ s.waitNotify = false

/-- A host write to a running instance keeps the invariant: the wake of R187 moves between active states, a rate request stays
inside its range, and a flag or the key latch is no part of it. -/
theorem State.InvNoPulse.hostWrite {s : State} (h : s.InvNoPulse) (hs : s.runState.active = true) (a : HostAction) :
    (s.hostWrite a).Inv := by
  obtain ⟨hinv, hw⟩ := h
  obtain ⟨hmem, hfault, hended, hpulse, hend, hclock, htimer⟩ := id hinv
  cases a with
  | setKey k =>
    obtain ⟨c, -, -, e⟩ | ⟨-, e⟩ := State.setKey_cases k s
    · rw [State.hostWrite, e]
      exact hinv.setRunState hw hs rfl
    · rw [State.hostWrite, e]
      exact hinv
  | clockUp => exact ⟨hmem, hfault, hended, hpulse, hend, clockLegal_clockUp hclock, htimer⟩
  | clockDown => exact ⟨hmem, hfault, hended, hpulse, hend, clockLegal_clockDown hclock, htimer⟩
  | timerUp | timerDown => exact ⟨hmem, hfault, hended, hpulse, hend, hclock, timerLegal_clampTimerRate _⟩
  | pause | resume | cancel | reset _ => exact hinv

/-- A host reset starts an instance that meets the invariant, whatever state it replaces. -/
theorem inv_of_hostReset {image : List Byte} {s t : State} (h : hostAct (.reset image) s = .next t) : t.Inv := by
  obtain ⟨himage, rfl⟩ := hostReset_next h
  refine ⟨launchMem_wf _ _, ?_, ?_, ?_, progEndLegal_of_imageWellFormed himage, clockLegal_ofIndex _,
    timerLegal_clampTimerRate _⟩ <;> simp [freshInstance, State.reset, State.ended, RunState.active]

theorem hostAct_keeps_invNoPulse (a : HostAction) (s t : State) (h : s.InvNoPulse) (hact : hostAct a s = .next t) :
    t.InvNoPulse := by
  refine ⟨?_, hostAct_waitNotify h.2 hact⟩
  by_cases hreset : ∃ image, a = .reset image
  · obtain ⟨image, rfl⟩ := hreset
    exact inv_of_hostReset hact
  · rw [hostAct_write (fun image e => hreset ⟨image, e⟩)] at hact
    cases hact
    split
    · exact h.hostWrite ‹_› a
    · exact h.1

/-- The TIMER agent writes the two timers and the count of boundaries, none of which the invariant speaks of. -/
theorem State.InvNoPulse.timerAgent {s : State} (h : s.InvNoPulse) : s.timerAgent.InvNoPulse := by
  unfold State.timerAgent
  split <;> exact h

/-- Whatever arrives at a boundary, the CORE starts from the invariant with no pulse. -/
theorem arrive_invNoPulse {s t : State} (h : s.Inv) (harr : arrive s = .next t) : t.InvNoPulse := by
  obtain ⟨m, hacts, rfl⟩ := arrive_next harr
  obtain ⟨hmem, hfault, hended, -, hranges⟩ := h
  have hstart : State.InvNoPulse { s with inbox := s.inbox.tail, waitNotify := false } :=
    ⟨⟨hmem, hfault, hended, by simp, hranges⟩, rfl⟩
  exact (hostActs_keeps (fun a _ => hostAct_keeps_invNoPulse a) hstart hacts).timerAgent

/-! ### The CORE -/

theorem exec_keeps_inv {i : Instr} {s t : State} (h : s.InvNoPulse) (hs : s.runState.active = true)
    (hexec : exec i s = .next t) : t.Inv := by
  obtain ⟨hinv, hw⟩ := h
  obtain hc | ⟨x, -, -, rfl⟩ | ⟨-, -, rfl⟩ | ⟨a, -, -, rfl⟩ := exec_control_cases hexec
  · exact hinv.of_control hc (exec_keeps_wf hinv.1 hexec)
  · exact hinv.waitForKey hs x
  · exact hinv.raise hw (by simp) _
  · exact hinv.raise hw (by simp) _

theorem instructionStep_keeps_inv {s t : State} (h : s.InvNoPulse) (hs : s.runState.active = true)
    (hstep : instructionStep s = .next t) : t.Inv := by
  have hadv : s.advancePc.InvNoPulse := h
  rw [instructionStep_eq] at hstep
  split at hstep
  · exact exec_keeps_inv hadv hs hstep
  · cases hstep
    exact hadv.1.raise hadv.2 (by simp) _

theorem runOrEnd_keeps_inv {s t : State} (h : s.InvNoPulse) (hs : s.runState.active = true)
    (hrun : runOrEnd s = .next t) : t.Inv := by
  obtain ⟨-, rfl⟩ | ⟨-, hstep⟩ := runOrEnd_cases hrun
  · exact h.1.terminate h.2 hs rfl (by simp)
  · exact instructionStep_keeps_inv h hs hstep

theorem evaluateBoundary_keeps_inv {s t : State} (h : s.InvNoPulse) (heval : evaluateBoundary s = .next t) : t.Inv := by
  obtain ⟨hinv, hw⟩ := id h
  obtain ⟨-, rfl⟩ | ⟨hs, -, rfl⟩ | ⟨hr, -, -, rfl⟩ | ⟨-, -, -, rfl⟩ | ⟨-, -, rfl⟩ | ⟨hr, -, -, hrun⟩ :=
    evaluateBoundary_cases heval
  · exact hinv
  · exact hinv.terminate hw hs rfl (by simp)
  · exact hinv.setRunState hw (by simp [hr, RunState.active]) rfl
  · exact hinv
  · exact hinv
  · have hs : s.runState.active = true := by rcases hr with hr | hr <;> simp [hr, RunState.active]
    have hrunning : State.InvNoPulse { s with runState := .running } := ⟨hinv.setRunState hw hs rfl, hw⟩
    exact runOrEnd_keeps_inv hrunning rfl hrun

/-- Settles O54: what arrives at the boundary keeps the invariant and ends the last pulse, and from there every case of the
CORE's evaluation keeps it. -/
theorem stepKeepsInvariant : Obligations.StepKeepsInvariant := by
  unfold Obligations.StepKeepsInvariant
  intro s u h hstep
  obtain ⟨t, harr, heval⟩ := step_next hstep
  exact evaluateBoundary_keeps_inv (arrive_invNoPulse h harr) heval

end Sys2Proof.Machine
end

section
/-!
The registers beside `V` and `PC` (`I`, the call stack, the timers) and which instructions reach them: one inversion lemma over
the instruction set, from which O43 and O44 are read off.
-/

namespace Sys2Proof.Machine

/-- The address register, the call stack and the two timers (R22, R26, R28, R29). -/
structure SpecialRegs where
  i : Addr
  sp : Fin 17
  stack : Vector Addr 16
  dt : Byte
  st : Byte

/-- The special registers of a state. -/
def State.special (s : State) : SpecialRegs where
  i := s.i
  sp := s.sp
  stack := s.stack
  dt := s.dt
  st := s.st

/-! ### The loops -/

@[simp] theorem special_drawPixel (k : Nat) (bit : Bool) (s : State) : (drawPixel k bit s).special = s.special := by
  unfold drawPixel
  dsimp only
  split <;> rfl

@[simp] theorem special_drawRow (ox oy : Byte) (row : Nat) (s : State) : (drawRow ox oy row s).special = s.special := by
  simp only [drawRow]
  exact forEach_keeps State.special (by simp) 8 s

@[simp] theorem special_storeRegs (n : Nat) (s : State) : (storeRegs n s).special = s.special :=
  forEach_keeps State.special (by intros; rfl) n s

@[simp] theorem special_loadRegs (n : Nat) (s : State) : (loadRegs n s).special = s.special :=
  forEach_keeps State.special (by intros; rfl) n s

/-! ### The whole instruction set -/

/-- What an instruction does to the special registers: nothing, or a write of `I` by one of its three writers, or of one timer by
its one writer, or a push by `CALL`, or a pop by `RET`. A stack fault is one of the cases that do nothing. -/
theorem exec_special_cases {i : Instr} {s t : State} (h : exec i s = .next t) :
    t.special = s.special ∨
    (((∃ a, i = .ldI a) ∨ (∃ x, i = .addI x) ∨ ∃ x, i = .ldF x) ∧ ∃ a, t = s.setI a) ∨
    (∃ x, i = .ldDtVx x ∧ t = s.setDt (s.getV x)) ∨
    (∃ x, i = .ldStVx x ∧ t = s.setSt (s.getV x)) ∨
    (∃ a u, i = .call a ∧ s.push s.pc = some u ∧ t = u.setPc a) ∨
    (∃ a u, i = .ret ∧ s.pop = some (a, u) ∧ t = u.setPc a) := by
  cases i with
  | ldI a =>
    cases h
    exact .inr (.inl ⟨.inl ⟨a, rfl⟩, _, rfl⟩)
  | addI x =>
    cases h
    exact .inr (.inl ⟨.inr (.inl ⟨x, rfl⟩), _, rfl⟩)
  | ldF x =>
    cases h
    exact .inr (.inl ⟨.inr (.inr ⟨x, rfl⟩), _, rfl⟩)
  | ldDtVx x =>
    cases h
    exact .inr (.inr (.inl ⟨x, rfl, rfl⟩))
  | ldStVx x =>
    cases h
    exact .inr (.inr (.inr (.inl ⟨x, rfl, rfl⟩)))
  | call a =>
    obtain ⟨u, hpush, rfl⟩ | ⟨-, rfl⟩ := execCall_cases h
    · exact .inr (.inr (.inr (.inr (.inl ⟨a, u, rfl, hpush, rfl⟩))))
    · exact .inl rfl
  | ret =>
    obtain ⟨a, u, hpop, rfl⟩ | ⟨-, rfl⟩ := execRet_cases h
    · exact .inr (.inr (.inr (.inr (.inr ⟨a, u, rfl, hpop, rfl⟩))))
    · exact .inl rfl
  | ldVxK x =>
    obtain ⟨c, -, rfl⟩ | ⟨-, rfl⟩ := execLdVxK_cases h <;> exact .inl rfl
  | drw x y n =>
    cases h
    exact .inl (forEach_keeps State.special (special_drawRow _ _) _ _)
  | ldMemVx x =>
    cases h
    exact .inl (special_storeRegs _ _)
  | ldVxMem x =>
    cases h
    exact .inl (special_loadRegs _ _)
  | rnd x kk =>
    cases h
    exact .inl rfl
  | _ =>
    cases h
    exact .inl (by simp [State.special])

/-- What an instruction does to the call stack: nothing, or one entry more by `CALL`, or one entry less, with nothing erased, by
`RET` (R26, R27). -/
theorem exec_stack_cases {i : Instr} {s t : State} (h : exec i s = .next t) :
    (t.sp.val = s.sp.val ∧ t.stack = s.stack) ∨ ((∃ a, i = .call a) ∧ t.sp.val = s.sp.val + 1) ∨
    (i = .ret ∧ t.sp.val + 1 = s.sp.val ∧ t.stack = s.stack) := by
  obtain hkept | ⟨-, a, rfl⟩ | ⟨x, -, rfl⟩ | ⟨x, -, rfl⟩ | ⟨a, u, rfl, hpush, rfl⟩ | ⟨a, u, rfl, hpop, rfl⟩ :=
    exec_special_cases h
  · exact .inl ⟨congrArg (fun r : SpecialRegs => r.sp.val) hkept, congrArg SpecialRegs.stack hkept⟩
  · exact .inl ⟨rfl, rfl⟩
  · exact .inl ⟨rfl, rfl⟩
  · exact .inl ⟨rfl, rfl⟩
  · obtain ⟨_, rfl⟩ := State.push_spec hpush
    exact .inr (.inl ⟨⟨a, rfl⟩, rfl⟩)
  · obtain ⟨hsp, -, rfl⟩ := State.pop_spec hpop
    exact .inr (.inr ⟨rfl, Nat.sub_add_cancel hsp, rfl⟩)

/-- Settles O43: read off what an instruction can do to the call stack. -/
theorem onlyCallAndRetReachStack : Obligations.OnlyCallAndRetReachStack := by
  unfold Obligations.OnlyCallAndRetReachStack
  intro i s t h
  obtain ⟨hsp, hstack⟩ | ⟨hcall, hsp⟩ | ⟨hret, hsp, hstack⟩ := exec_stack_cases h
  · exact ⟨by omega, by omega, .inl hsp, fun hne => absurd hstack hne⟩
  · exact ⟨fun _ => hcall, by omega, .inr (.inl hsp), fun _ => hcall⟩
  · exact ⟨by omega, fun _ => hret, .inr (.inr hsp), fun hne => absurd hstack hne⟩

/-- Settles O44: of the cases of the special registers, each of `I`, `DT` and `ST` changes only in that of its writers. -/
theorem writersOfAddressRegisterAndTimers : Obligations.WritersOfAddressRegisterAndTimers := by
  unfold Obligations.WritersOfAddressRegisterAndTimers
  intro i s t h
  obtain hkept | ⟨hwriter, a, rfl⟩ | ⟨x, hi, rfl⟩ | ⟨x, hi, rfl⟩ | ⟨a, u, -, hpush, rfl⟩ | ⟨a, u, -, hpop, rfl⟩ :=
    exec_special_cases h
  · exact ⟨absurd (congrArg SpecialRegs.i hkept), absurd (congrArg SpecialRegs.dt hkept),
      absurd (congrArg SpecialRegs.st hkept)⟩
  · exact ⟨fun _ => hwriter, absurd rfl, absurd rfl⟩
  · exact ⟨absurd rfl, fun _ => ⟨x, hi⟩, absurd rfl⟩
  · exact ⟨absurd rfl, absurd rfl, fun _ => ⟨x, hi⟩⟩
  · obtain ⟨_, rfl⟩ := State.push_spec hpush
    exact ⟨absurd rfl, absurd rfl, absurd rfl⟩
  · obtain ⟨_, -, rfl⟩ := State.pop_spec hpop
    exact ⟨absurd rfl, absurd rfl, absurd rfl⟩

end Sys2Proof.Machine
end

section
/-!
Which general registers each instruction may change (O45): what a changed register tells of the operation that changed it, then
one case split over the instruction set.
-/

namespace Sys2Proof.Machine

/-! ### The operations on registers -/

/-- Only the register written changes. -/
theorem State.eq_of_getV_setV_ne {s : State} {x r : Reg} {b : Byte} (h : (s.setV x b).getV r ≠ s.getV r) : r = x := by
  by_contra hr
  exact h (by rw [State.getV_setV, if_neg hr])

/-- Only the destination and VF change when an ALU result and its flag are written (R21). -/
theorem State.eq_of_getV_writeResultThenFlag_ne {s : State} {x r : Reg} {b : Byte} {f : Bool}
    (h : (s.writeResultThenFlag x b f).getV r ≠ s.getV r) : r = x ∨ r = vf := by
  by_contra! hr
  exact h (by rw [State.getV_writeResultThenFlag, if_neg hr.2, if_neg hr.1])

/-- Drawing a pixel changes no register but VF (R171). -/
theorem getV_drawPixel_of_ne_vf {r : Reg} (hr : r ≠ vf) (k : Nat) (bit : Bool) (s : State) :
    (drawPixel k bit s).getV r = s.getV r := by
  unfold drawPixel
  dsimp only
  rw [State.getV_congr (State.setPixel_fields _ _ _).1]
  split
  · rw [State.getV_setFlag, if_neg hr]
  · rfl

theorem getV_drawRow_of_ne_vf {r : Reg} (hr : r ≠ vf) (ox oy : Byte) (row : Nat) (s : State) :
    (drawRow ox oy row s).getV r = s.getV r :=
  forEach_keeps (State.getV · r) (fun _ => getV_drawPixel_of_ne_vf hr _ _) 8 s

/-- `DRW` changes no register but VF: the rows are drawn after VF is cleared (R171). -/
theorem getV_execDrw_of_ne_vf {r : Reg} (hr : r ≠ vf) {x y : Reg} {n : Nibble} {s t : State} (h : execDrw x y n s = .next t) :
    t.getV r = s.getV r := by
  cases h
  calc (forEach n.toNat (drawRow (s.getV x) (s.getV y)) (s.setFlag false)).getV r
      _ = (s.setFlag false).getV r := forEach_keeps (State.getV · r) (getV_drawRow_of_ne_vf hr _ _) _ _
      _ = s.getV r := by rw [State.getV_setFlag, if_neg hr]

/-- The loads of the first n registers leave the registers from n on (R205). -/
theorem getV_loadRegs_of_le {n : Nat} {r : Reg} (hr : n ≤ r.toNat) (s : State) : (loadRegs n s).getV r = s.getV r := by
  refine forEach_induct (P := fun _ t => t.getV r = s.getV r) rfl fun k t hk ht => ?_
  have hne : r ≠ regOf k := by
    rintro rfl
    have : (regOf k).toNat ≤ k := by simpa [regOf] using Nat.mod_le k 16
    omega
  rw [State.getV_setV, if_neg hne, ht]

/-- The stores of `LD [I], Vx` leave the register file. -/
@[simp] theorem v_storeRegs (n : Nat) (s : State) : (storeRegs n s).v = s.v :=
  forEach_keeps State.v (by intros; rfl) n s

/-- A push leaves the register file (R27). -/
theorem State.v_push {s t : State} {a : Addr} (h : s.push a = some t) : t.v = s.v := by
  obtain ⟨_, rfl⟩ := State.push_spec h
  rfl

/-- A pop leaves the register file (R27). -/
theorem State.v_pop {s t : State} {a : Addr} (h : s.pop = some (a, t)) : t.v = s.v := by
  obtain ⟨_, -, rfl⟩ := State.pop_spec h
  rfl

/-! ### The whole instruction set -/

/-- Settles O45: one case per way an instruction writes registers. -/
theorem onlyDestinationsAndFlagChange : Obligations.OnlyDestinationsAndFlagChange := by
  unfold Obligations.OnlyDestinationsAndFlagChange
  intro i s t r h hne
  cases i with
  | ldByte x _ | addByte x _ | ldReg x _ | orReg x _ | andReg x _ | xorReg x _ | ldVxDt x =>
    cases h
    exact State.eq_of_getV_setV_ne hne
  | rnd x kk =>
    cases h
    exact State.eq_of_getV_setV_ne (s := s.rand.2) hne
  | ldVxK x =>
    obtain ⟨c, -, rfl⟩ | ⟨-, rfl⟩ := execLdVxK_cases h
    · exact State.eq_of_getV_setV_ne hne
    · exact absurd rfl hne
  | addReg x _ | sub x _ | shr x _ | subn x _ | shl x _ =>
    cases h
    exact State.eq_of_getV_writeResultThenFlag_ne hne
  | drw x y n =>
    by_contra hr
    exact hne (getV_execDrw_of_ne_vf hr h)
  | ldVxMem x =>
    cases h
    by_contra hr
    exact hne (getV_loadRegs_of_le (Nat.lt_of_not_le hr) s)
  | call a =>
    obtain ⟨u, hpush, rfl⟩ | ⟨-, rfl⟩ := execCall_cases h
    · exact hne (State.getV_congr (State.v_push hpush) r)
    · exact hne rfl
  | ret =>
    obtain ⟨a, u, hpop, rfl⟩ | ⟨-, rfl⟩ := execRet_cases h
    · exact hne (State.getV_congr (State.v_pop hpop) r)
    · exact hne rfl
  | _ =>
    cases h
    exact hne (State.getV_congr (by simp) r)

end Sys2Proof.Machine
end

section
/-!
The reset state (R40): its values and the invariant of the machine.
-/

namespace Sys2Proof.Machine

/-- With no cell listed, memory reads as the reset contents. -/
theorem memRead_reset (a : Addr) : State.reset.memRead a = fontTable.getD a.toNat 0 := rfl

/-- Settles O53: at reset the run is active with no fault and no notification, and both rates are the defaults. -/
theorem resetMeetsInvariant : Obligations.ResetMeetsInvariant := by
  unfold Obligations.ResetMeetsInvariant
  have hfault : State.reset.faultCause = .none ↔ State.reset.runState ≠ .terminatedError := by decide
  have hended : State.reset.endNotified = true ↔ State.reset.ended := by decide
  have hpulse : State.reset.waitNotify = true → State.reset.runState = .waitingForKey := by decide
  exact ⟨reset_wf, hfault, hended, hpulse, by decide, by decide, timerLegal_default⟩

/-- Settles O59: the register values are the fields of the reset state; the font area reads the font table, memory past it 0. -/
theorem resetValues : Obligations.ResetValues := by
  unfold Obligations.ResetValues
  have hv : ∀ x : Reg, State.reset.getV x = 0#8 := fun x => by simp [State.getV, State.reset]
  have hpixel : ∀ k, State.reset.pixel k = false := State.pixel_clearPixels State.reset
  have hfont : ∀ j (h : j < 80), State.reset.memRead (BitVec.ofNat 12 j) = defaultFont[j] := by
    intro j h
    have hj : j % 4096 = j := Nat.mod_eq_of_lt (by omega)
    rw [memRead_reset, BitVec.toNat_ofNat, hj]
    exact List.getD_eq_getElem _ _ h
  have hrest : ∀ a : Addr, 80 ≤ a.toNat → State.reset.memRead a = 0#8 := fun a h =>
    List.getD_eq_default fontTable 0 h
  exact ⟨hv, rfl, rfl, rfl, rfl, rfl, hpixel, rfl, rfl, rfl, rfl, rfl, rfl, rfl, rfl, hfont, hrest⟩

end Sys2Proof.Machine
end

section
/-!
Memory (spec/20_memory.md): the fetch as a number, the store seen by the fetch, and which instructions store.
-/

namespace Sys2Proof.Machine

/-- The address after `a` wraps modulo 4096 (R25, R76). -/
theorem ofNat_toNat_succ_mod (a : Addr) : BitVec.ofNat 12 ((a.toNat + 1) % 4096) = a + 1#12 := by
  apply BitVec.eq_of_toNat_eq
  simp [BitVec.toNat_add]

/-- Settles O7: the second byte is read at the wrapped address, and joining two bytes puts the first at weight 256. -/
theorem fetchIsBigEndianAndWraps : Obligations.FetchIsBigEndianAndWraps := by
  unfold Obligations.FetchIsBigEndianAndWraps
  intro s
  rw [ofNat_toNat_succ_mod]
  exact toNat_append_add (s.memRead s.pc) (s.memRead (s.pc + 1#12))

/-- Settles O8: the second store leaves the byte at `PC`, its address being another one even where it wraps; so both bytes are
read back, and they are the opcode's. -/
theorem storeIsSeenByNextFetch : Obligations.StoreIsSeenByNextFetch := by
  unfold Obligations.StoreIsSeenByNextFetch
  intro s w
  have hne : s.pc ≠ s.pc + 1#12 := by bv_omega
  have hhi : ((s.memWrite s.pc (opcodeHi w)).memWrite (s.pc + 1#12) (opcodeLo w)).memRead s.pc = opcodeHi w := by
    rw [State.memRead_memWrite, if_neg hne, State.memRead_memWrite, if_pos rfl]
  have hlo : ((s.memWrite s.pc (opcodeHi w)).memWrite (s.pc + 1#12) (opcodeLo w)).memRead (s.pc + 1#12) = opcodeLo w := by
    rw [State.memRead_memWrite, if_pos rfl]
  calc ((s.memWrite s.pc (opcodeHi w)).memWrite (s.pc + 1#12) (opcodeLo w)).fetch
      _ = opcodeOfBytes (opcodeHi w) (opcodeLo w) := congrArg₂ opcodeOfBytes hhi hlo
      _ = w := opcodeOfBytes_hi_lo w

/-- Settles O41: an instruction that leaves the memory changes no read of it, and the others are the two that store. -/
theorem onlyTwoInstructionsStore : Obligations.OnlyTwoInstructionsStore := by
  unfold Obligations.OnlyTwoInstructionsStore
  intro i s t a h hne
  obtain hkept | hstores := exec_mem_cases h
  · exact absurd (State.memRead_congr hkept a) hne
  · exact hstores

end Sys2Proof.Machine
end

section
/-!
The decoder against the encoder and against the six sets of R96 (O1 to O4): the two round trips, and what the decoder can do,
said once: it answers outright for ten values of `op` and asks one of the six groups for the others.
-/

namespace Sys2Proof

/-! ### Decoding a word that was laid out -/

/-- The encoder's word decodes to its instruction: the fields are read back, format by format (R92). -/
theorem decode_encode (i : Instr) : decode (encode i) = .ok i := by
  cases i with
  | cls | ret => rfl
  | jp nnn | call nnn | ldI nnn | jpV0 nnn => simp [encode, decode, fieldOp_formatA, fieldNNN_formatA]
  | seByte x kk | sneByte x kk | ldByte x kk | addByte x kk | rnd x kk =>
    simp [encode, decode, fieldOp_formatXK, fieldX_formatXK, fieldKK_formatXK]
  | seReg x y =>
    simp [encode, decode, decodeGroup5, fieldOp_formatXYN, fieldX_formatXYN, fieldY_formatXYN, fieldN_formatXYN]
  | ldReg x y | orReg x y | andReg x y | xorReg x y | addReg x y | sub x y | shr x y | subn x y | shl x y =>
    simp [encode, decode, decodeGroup8, fieldOp_formatXYN, fieldX_formatXYN, fieldY_formatXYN, fieldN_formatXYN]
  | sneReg x y =>
    simp [encode, decode, decodeGroup9, fieldOp_formatXYN, fieldX_formatXYN, fieldY_formatXYN, fieldN_formatXYN]
  | drw x y n => simp [encode, decode, fieldOp_formatXYN, fieldX_formatXYN, fieldY_formatXYN, fieldN_formatXYN]
  | skp x | sknp x => simp [encode, decode, decodeGroupE, fieldOp_formatXK, fieldX_formatXK, fieldKK_formatXK]
  | ldVxDt x | ldVxK x | ldDtVx x | ldStVx x | addI x | ldF x | ldB x | ldMemVx x | ldVxMem x =>
    simp [encode, decode, decodeGroupF, fieldOp_formatXK, fieldX_formatXK, fieldKK_formatXK]

/-- A word written out decodes to the instruction whose word it is. -/
theorem decode_of_encode_eq {w : Opcode} {i : Instr} (h : encode i = w) : decode w = .ok i := by
  rw [← h, decode_encode]

/-- Settles O2: read back format by format, whether or not the instruction is well formed. -/
theorem decodeOfEncodeIsIdentity : Obligations.DecodeOfEncodeIsIdentity := by
  unfold Obligations.DecodeOfEncodeIsIdentity
  exact fun i _ => decode_encode i

/-! ### Laying out the fields of a word -/

section
variable {w : Opcode} {o : BitVec 4}

/-- A word is its format A fields laid out. -/
theorem formatA_of_fields {nnn : Addr} (ho : (fieldOp w).toNat = o.toNat) (hnnn : (fieldNNN w).toNat = nnn.toNat) :
    (o ++ nnn : BitVec 16) = w := by
  apply BitVec.eq_of_toNat_eq
  rw [toNat_formatA, ← ho, ← hnnn, fieldOp_toNat, fieldNNN_toNat]
  omega

/-- A word is its format XK fields laid out. -/
theorem formatXK_of_fields {kk : Byte} (ho : (fieldOp w).toNat = o.toNat) (hkk : (fieldKK w).toNat = kk.toNat) :
    (o ++ fieldX w ++ kk : BitVec 16) = w := by
  apply BitVec.eq_of_toNat_eq
  rw [toNat_formatXK, ← ho, ← hkk, fieldOp_toNat, fieldX_toNat, fieldKK_toNat]
  omega

/-- A word is its format XYN fields laid out. -/
theorem formatXYN_of_fields {n : Nibble} (ho : (fieldOp w).toNat = o.toNat) (hn : (fieldN w).toNat = n.toNat) :
    (o ++ fieldX w ++ fieldY w ++ n : BitVec 16) = w := by
  apply BitVec.eq_of_toNat_eq
  rw [toNat_formatXYN, ← ho, ← hn, fieldOp_toNat, fieldX_toNat, fieldY_toNat, fieldN_toNat]
  omega

end

/-! ### The six groups with a secondary selector (R94) -/

/-- The `op` value of the group that a set of unrecognized words lies in (R96). -/
def Unrecognized.op : Unrecognized → BitVec 4
  | .group0 => 0x0#4
  | .group5 => 0x5#4
  | .group8 => 0x8#4
  | .group9 => 0x9#4
  | .groupE => 0xE#4
  | .groupF => 0xF#4

/-- The decoder of that group. -/
def Unrecognized.decodeGroup : Unrecognized → Opcode → Except Unrecognized Instr
  | .group0 => decodeGroup0
  | .group5 => decodeGroup5
  | .group8 => decodeGroup8
  | .group9 => decodeGroup9
  | .groupE => decodeGroupE
  | .groupF => decodeGroupF

/-- The secondary selector that the group's decoder looks at: `nnn`, `n` or `kk` (R94). -/
def Unrecognized.selector (w : Opcode) : Unrecognized → Nat
  | .group0 => (fieldNNN w).toNat
  | .group5 | .group8 | .group9 => (fieldN w).toNat
  | .groupE | .groupF => (fieldKK w).toNat

/-- The secondary selectors that the group's decoder recognizes (R94). -/
def Unrecognized.selectors : Unrecognized → List Nat
  | .group0 => [0x0E0, 0x0EE]
  | .group5 | .group9 => [0x0]
  | .group8 => [0x0, 0x1, 0x2, 0x3, 0x4, 0x5, 0x6, 0x7, 0xE]
  | .groupE => [0x9E, 0xA1]
  | .groupF => [0x07, 0x0A, 0x15, 0x18, 0x1E, 0x29, 0x33, 0x55, 0x65]

/-- A set of R96 lies in its group. -/
theorem Unrecognized.op_of_has {g : Unrecognized} {w : Opcode} (h : g.has w = true) : fieldOp w = g.op := by
  cases g <;> exact beq_iff_eq.1 (Bool.and_eq_true_iff.1 h).1

/-- In its group, a set of R96 is what the secondary selectors of R94 leave: group 8 lists the seven values left, the others
exclude those taken. -/
theorem Unrecognized.has_iff_of_op {g : Unrecognized} {w : Opcode} (ho : fieldOp w = g.op) :
    g.has w = true ↔ g.selector w ∉ g.selectors := by
  simp only [Unrecognized.has, show w.extractLsb' 12 4 = g.op from ho]
  cases g with
  | group8 =>
    simp only [Unrecognized.selector, fieldN]
    generalize w.extractLsb' 0 4 = n
    decide +revert
  | _ => simp [Unrecognized.op, Unrecognized.selector, Unrecognized.selectors, fieldNNN, fieldN, fieldKK, BitVec.toNat_eq]

/-- In a group, the group's decoder decodes. -/
theorem decode_of_op {g : Unrecognized} {w : Opcode} (h : fieldOp w = g.op) : decode w = g.decodeGroup w := by
  unfold decode
  rw [h]
  cases g <;> rfl

/-- Outside the groups, the decoder recognizes the word as it lays its fields out (R94). Case `h_k` of the split is the value
`k - 1` of `op`. -/
theorem op_of_group_or_decode_ok (w : Opcode) :
    (∃ g : Unrecognized, fieldOp w = g.op) ∨ ∃ i, decode w = .ok i ∧ encode i = w := by
  unfold decode
  split
  case h_2 h | h_3 h | h_11 h | h_12 h => exact .inr ⟨_, rfl, formatA_of_fields h rfl⟩
  case h_4 h | h_5 h | h_7 h | h_8 h | h_13 h => exact .inr ⟨_, rfl, formatXK_of_fields h rfl⟩
  case h_14 h => exact .inr ⟨_, rfl, formatXYN_of_fields h rfl⟩
  case h_1 h => exact .inl ⟨.group0, BitVec.eq_of_toNat_eq h⟩
  case h_6 h => exact .inl ⟨.group5, BitVec.eq_of_toNat_eq h⟩
  case h_9 h => exact .inl ⟨.group8, BitVec.eq_of_toNat_eq h⟩
  case h_10 h => exact .inl ⟨.group9, BitVec.eq_of_toNat_eq h⟩
  case h_15 h => exact .inl ⟨.groupE, BitVec.eq_of_toNat_eq h⟩
  case h_16 =>
    refine .inl ⟨.groupF, ?_⟩
    generalize fieldOp w = o at *
    decide +revert

/-- What the decoder of a group can do: recognize the word as it lays its fields out, or reject it for its secondary selector. -/
theorem decodeGroup_cases {g : Unrecognized} {w : Opcode} (ho : fieldOp w = g.op) :
    (∃ i, g.decodeGroup w = .ok i ∧ encode i = w ∧ g.selector w ∈ g.selectors) ∨
    (g.decodeGroup w = .error g ∧ g.selector w ∉ g.selectors) := by
  replace ho := congrArg BitVec.toNat ho
  cases g with
  | group0 =>
    simp only [Unrecognized.decodeGroup, decodeGroup0, Unrecognized.selector, Unrecognized.selectors]
    split
    next hnnn => exact .inl ⟨_, rfl, formatA_of_fields (nnn := 0x0E0#12) ho hnnn, by simp [hnnn]⟩
    next hnnn => exact .inl ⟨_, rfl, formatA_of_fields (nnn := 0x0EE#12) ho hnnn, by simp [hnnn]⟩
    next => exact .inr ⟨rfl, by simp_all⟩
  | group8 =>
    simp only [Unrecognized.decodeGroup, decodeGroup8, Unrecognized.selector, Unrecognized.selectors]
    split
    case h_10 => exact .inr ⟨rfl, by simp_all⟩
    all_goals exact .inl ⟨_, rfl, formatXYN_of_fields ho ‹_›, by simp [*]⟩
  | group5 | group9 =>
    simp only [Unrecognized.decodeGroup, decodeGroup5, decodeGroup9, Unrecognized.selector, Unrecognized.selectors]
    split
    next hn => exact .inl ⟨_, rfl, formatXYN_of_fields ho hn, by simp [hn]⟩
    next => exact .inr ⟨rfl, by simp_all⟩
  | groupE =>
    simp only [Unrecognized.decodeGroup, decodeGroupE, Unrecognized.selector, Unrecognized.selectors]
    split
    case h_3 => exact .inr ⟨rfl, by simp_all⟩
    all_goals exact .inl ⟨_, rfl, formatXK_of_fields ho ‹_›, by simp [*]⟩
  | groupF =>
    simp only [Unrecognized.decodeGroup, decodeGroupF, Unrecognized.selector, Unrecognized.selectors]
    split
    case h_10 => exact .inr ⟨rfl, by simp_all⟩
    all_goals exact .inl ⟨_, rfl, formatXK_of_fields ho ‹_›, by simp [*]⟩

/-- A word of one of the six sets is rejected by the set's name. -/
theorem decode_of_has {g : Unrecognized} {w : Opcode} (h : g.has w = true) : decode w = .error g := by
  have ho := Unrecognized.op_of_has h
  rw [decode_of_op ho]
  obtain ⟨i, -, -, hsel⟩ | ⟨herror, -⟩ := decodeGroup_cases ho
  · exact absurd hsel ((Unrecognized.has_iff_of_op ho).1 h)
  · exact herror

/-- What the decoder can do: recognize the word as it lays its fields out, or reject it by the name of a set it lies in
(R94, R96). -/
theorem decode_ok_or_error (w : Opcode) :
    (∃ i, decode w = .ok i ∧ encode i = w) ∨ ∃ g : Unrecognized, decode w = .error g ∧ g.has w = true := by
  obtain ⟨g, ho⟩ | hok := op_of_group_or_decode_ok w
  · rw [decode_of_op ho]
    obtain ⟨i, hok, hword, -⟩ | ⟨herror, hsel⟩ := decodeGroup_cases ho
    · exact .inl ⟨i, hok, hword⟩
    · exact .inr ⟨g, herror, (Unrecognized.has_iff_of_op ho).2 hsel⟩
  · exact .inl hok

/-- The decoder rejects by a set's name exactly the words of the set. -/
theorem decode_eq_error_iff (w : Opcode) (g : Unrecognized) : decode w = .error g ↔ g.has w = true := by
  refine ⟨fun h => ?_, decode_of_has⟩
  obtain ⟨i, hok, -⟩ | ⟨g', herror, hhas⟩ := decode_ok_or_error w
  · cases h.symm.trans hok
  · cases h.symm.trans herror
    exact hhas

/-- A well-formed word is one that no set of R96 holds. -/
theorem opcodeWellFormed_iff (w : Opcode) : opcodeWellFormed w = true ↔ ∀ g : Unrecognized, g.has w ≠ true := by
  refine ⟨fun h g => ?_, fun h => by simp [opcodeWellFormed, h]⟩
  simp only [opcodeWellFormed, List.all_cons, List.all_nil, Bool.and_true, Bool.and_eq_true, Bool.not_eq_true'] at h
  cases g <;> simp [h]

/-! ### The statements about the decoder -/

/-- Operands of the field widths are all legal (R93). -/
theorem Instr.wellFormed_eq_true (i : Instr) : i.wellFormed = true := by cases i <;> rfl

/-- Settles O3: a recognized word is one whose fields the decoder laid out. -/
theorem encodeOfDecodeIsIdentity : Obligations.EncodeOfDecodeIsIdentity := by
  unfold Obligations.EncodeOfDecodeIsIdentity
  intro w i h
  obtain ⟨i', hok, hword⟩ | ⟨g, herror, -⟩ := decode_ok_or_error w
  · cases h.symm.trans hok
    exact ⟨hword, i.wellFormed_eq_true⟩
  · cases h.symm.trans herror

/-- Settles O4: a word is recognized when no set holds it, for the decoder rejects it by no name then. -/
theorem unrecognizedEncodingsAreTheSixSets : Obligations.UnrecognizedEncodingsAreTheSixSets := by
  unfold Obligations.UnrecognizedEncodingsAreTheSixSets
  refine fun w => ⟨decode_eq_error_iff w, ?_⟩
  simp only [opcodeWellFormed_iff, ne_eq, ← decode_eq_error_iff]
  cases decode w <;> simp

/-- Settles O1: the words are the encoder's, and the rejected ones each lie in their set. -/
theorem specWordsDecode : Obligations.SpecWordsDecode := by
  unfold Obligations.SpecWordsDecode
  refine ⟨?_, ?_, ?_, ?_, ?_, ?_, ?_, ?_, ?_, ?_, ?_, decode_of_has rfl, decode_of_has rfl, decode_of_has rfl,
    decode_of_has rfl, decode_of_has rfl, decode_of_has rfl⟩
  all_goals exact decode_of_encode_eq rfl

end Sys2Proof
end

section
/-!
The run-control registers no instruction reaches but by the key wait and the two stack faults (O46), and the step that runs an
instruction (O5).
-/

namespace Sys2Proof.Machine

/-! ### The three instructions that reach run control, each under its condition -/

/-- `RET` with an empty stack takes its fault (R222). -/
theorem execRet_of_empty {s : State} (h : s.sp.val = 0) : execRet s = .next (s.raise .stackUnderflow (encode .ret)) := by
  simp only [execRet, s.pop_none.2 h]

/-- `CALL` with a full stack takes its fault (R223). -/
theorem execCall_of_full {s : State} (h : s.sp.val = 16) (a : Addr) :
    execCall a s = .next (s.raise .stackOverflow (encode (.call a))) := by
  simp only [execCall, (s.push_none s.pc).2 h]

/-- `LD Vx, K` with no matching key waits (R183). -/
theorem execLdVxK_of_none {s : State} (h : s.pressedCode = none) (x : Reg) : execLdVxK x s = .next (s.waitForKey x) := by
  simp only [execLdVxK, h]

/-- No key matches: the latch is empty, or holds a key with no code (R186). -/
theorem State.pressedCode_eq_none_iff (s : State) :
    s.pressedCode = none ↔ ∀ h, s.key = some h → keyMap s.params h = none := by
  simp only [State.pressedCode, Option.bind_eq_none_iff]

/-- What the host and the model own, no instruction changes (R31, R34, R36, R37, R102). -/
theorem exec_keeps_host {i : Instr} {s t : State} (h : exec i s = .next t) :
    t.key = s.key ∧ t.pause = s.pause ∧ t.cancel = s.cancel ∧ t.clockRate = s.clockRate ∧ t.timerRate = s.timerRate ∧
      t.progEnd = s.progEnd ∧ t.params = s.params ∧ t.inbox = s.inbox ∧ t.boundary = s.boundary := by
  obtain hkept | ⟨x, -, -, rfl⟩ | ⟨-, -, rfl⟩ | ⟨a, -, -, rfl⟩ := exec_control_cases h
  · simp only [State.control, Control.mk.injEq] at hkept
    simp [hkept]
  all_goals simp

/-- Settles O46: of the cases of the control part, the one that keeps it changes none of the registers, and the wait and the two
faults are as they stand; under its condition each is what the instruction answers. -/
theorem programCannotReachRunControl : Obligations.ProgramCannotReachRunControl := by
  unfold Obligations.ProgramCannotReachRunControl
  intro i s t h
  refine ⟨exec_keeps_host h, fun hchanged => ?_, ?_, ?_, ?_⟩
  · obtain hkept | ⟨x, hi, hnone, rfl⟩ | ⟨hi, hsp, rfl⟩ | ⟨a, hi, hsp, rfl⟩ := exec_control_cases h
    · simp only [State.control, Control.mk.injEq] at hkept
      simp [hkept] at hchanged
    · exact .inr (.inr ⟨x, hi, s.pressedCode_eq_none_iff.1 hnone, rfl, rfl, rfl⟩)
    · exact .inl ⟨hi, hsp, rfl, rfl⟩
    · exact .inr (.inl ⟨a, hi, hsp, rfl, rfl⟩)
  · rintro rfl hsp
    cases h.symm.trans (execRet_of_empty hsp)
    exact ⟨rfl, rfl, rfl⟩
  · rintro a rfl hsp
    cases h.symm.trans (execCall_of_full hsp a)
    exact ⟨rfl, rfl, rfl⟩
  · rintro x rfl hnone
    cases h.symm.trans (execLdVxK_of_none (s.pressedCode_eq_none_iff.2 hnone) x)
    exact ⟨rfl, rfl, rfl⟩

/-! ### The step that runs an instruction -/

/-- At a boundary that lets an active run go on, the ticks fall and the boundary is counted (R239). -/
theorem State.atBoundary_of_active {s : State} (h : s.runState.active = true) :
    s.atBoundary = { s with
      dt := countDownBy (Config.ticksAt s.boundary) s.dt
      st := countDownBy (Config.ticksAt s.boundary) s.st
      waitNotify := false
      inbox := s.inbox.tail
      boundary := s.boundary + 1 } := by
  simp only [State.atBoundary, State.timerAgent, h, if_true, State.ticks]

/-- A boundary that lets the run go on is followed by the instruction step (R230 (8)). -/
theorem step_of_runsNext {s : State} (h : s.runsNext) : step s = instructionStep s.atBoundary := by
  obtain ⟨hrun, hquiet, hcancel, hpause, hpc⟩ := h
  have hb := State.atBoundary_of_active (s := s) (by simp [hrun, RunState.active])
  simp [step, cycle, arrive_quiet hquiet, evaluateBoundary, runOrEnd, hb, hrun, hcancel, hpause, Nat.not_le.2 hpc]

/-- Settles O5: the boundary leaves `PC` and memory, so the instruction step decodes the bytes at `PC`. -/
theorem stepRunsDecodedInstruction : Obligations.StepRunsDecodedInstruction := by
  unfold Obligations.StepRunsDecodedInstruction
  intro s i hruns _ hdecode
  have hb := State.atBoundary_of_active (s := s) (by simp [hruns.1, RunState.active])
  have hfetch : decode s.atBoundary.fetch = .ok i := by rw [hb]; exact hdecode
  rw [step_of_runsNext hruns, instructionStep_eq, hfetch, hb]
  rfl

end Sys2Proof.Machine
end

section
/-!
The control-transfer instructions (O17 to O23, O42): jumps and skips are updates of `PC` alone, `CALL` and `RET` are a push and a
pop with their two faults, and no other instruction but the key skips changes the advanced `PC`.
-/

namespace Sys2Proof.Machine

/-! ### Updates of `PC` alone -/

theorem onlyPc_setPc (s : State) (a : Addr) : OnlyPc s (s.setPc a) :=
  ⟨fun _ _ => rfl, fun _ => rfl, rfl⟩

/-- A byte is added to an address as the number it is, and the sum wraps (R127). -/
theorem add_zext12_toNat (a : Addr) (b : Byte) : (a + zext12 b).toNat = (a.toNat + b.toNat) % 4096 := by
  have hb : (zext12 b).toNat = b.toNat := by
    rw [zext12, BitVec.toNat_setWidth]
    omega
  rw [BitVec.toNat_add, hb]

/-- What every skip answers: two bytes more when its condition holds, and nothing but `PC` changes (R123 to R126). -/
theorem next_skipIf_spec (s : State) {c : Bool} {p : Prop} [Decidable p] (hc : c = true ↔ p) :
    ∃ t, (.next (s.skipIf c) : Result) = .next t ∧ OnlyPc s t ∧
      t.pc.toNat = if p then (s.pc.toNat + 2) % 4096 else s.pc.toNat := by
  refine ⟨_, rfl, s.skipIf_eq c ▸ onlyPc_setPc s _, ?_⟩
  rw [s.skipIf_pc]
  by_cases hp : p
  · rw [if_pos hp, if_pos (hc.2 hp), BitVec.toNat_add]
    rfl
  · rw [if_neg hp, if_neg (mt hc.1 hp)]

/-- Settles O17: the jump is an update of `PC` alone. -/
theorem jumpSetsPc : Obligations.JumpSetsPc := by
  unfold Obligations.JumpSetsPc
  exact fun s nnn => ⟨decode_encode (.jp nnn), _, rfl, rfl, onlyPc_setPc s nnn⟩

/-- Settles O18: the indexed jump is an update of `PC` alone, to the wrapped sum. -/
theorem indexedJumpWraps : Obligations.IndexedJumpWraps := by
  unfold Obligations.IndexedJumpWraps
  exact fun s nnn => ⟨_, rfl, add_zext12_toNat nnn (s.getV 0#4), onlyPc_setPc s _⟩

/-- Settles O22: the two conditions are the Boolean tests of the byte. -/
theorem skipOnByte : Obligations.SkipOnByte := by
  unfold Obligations.SkipOnByte
  exact fun s x kk => ⟨decode_encode (.seByte x kk), next_skipIf_spec s beq_iff_eq,
    decode_encode (.sneByte x kk), next_skipIf_spec s bne_iff_ne⟩

/-- Settles O23: the two conditions are the Boolean tests of the two registers. -/
theorem skipOnRegisters : Obligations.SkipOnRegisters := by
  unfold Obligations.SkipOnRegisters
  exact fun s x y => ⟨decode_encode (.seReg x y), next_skipIf_spec s beq_iff_eq,
    decode_encode (.sneReg x y), next_skipIf_spec s bne_iff_ne⟩

/-! ### The call stack -/

/-- `Push` with room (R27): the converse of `State.push_spec`. -/
theorem State.push_of_room {s : State} (h : s.sp.val < 16) (a : Addr) :
    s.push a = some { s with stack := s.stack.set s.sp.val a h, sp := ⟨s.sp.val + 1, Nat.succ_lt_succ h⟩ } :=
  dif_pos h

/-- `Pop` with an entry in use (R27): the converse of `State.pop_spec`. -/
theorem State.pop_of_nonempty {s : State} (h : 0 < s.sp.val) :
    s.pop = some (s.stack[s.sp.val - 1]'(by have := s.sp.isLt; omega),
      { s with sp := ⟨s.sp.val - 1, by have := s.sp.isLt; omega⟩ }) :=
  dif_pos h

/-- A pop takes back the entry a push put there, wherever `PC` went in between (R27). -/
theorem State.pop_setPc_of_push {s t : State} {a : Addr} (h : s.push a = some t) (b : Addr) :
    (t.setPc b).pop = some (a, { s with stack := t.stack, pc := b }) := by
  obtain ⟨hsp, rfl⟩ := State.push_spec h
  rw [State.pop_of_nonempty (Nat.succ_pos _)]
  simp [State.setPc]

/-- `CALL` with room on the stack: the push, then the jump (R122). -/
theorem execCall_of_push {s u : State} (h : s.push s.pc = some u) (a : Addr) : execCall a s = .next (u.setPc a) := by
  simp only [execCall, h]

/-- `RET` with an entry in use: the jump to what the pop answers (R120). -/
theorem execRet_of_pop {s u : State} {a : Addr} (h : s.pop = some (a, u)) : execRet s = .next (u.setPc a) := by
  simp only [execRet, h]

/-- The host reads a fault that has been taken by its code and opcode (R35, R224). -/
theorem readsFault_raise (s : State) (c : FaultCause) (w : Opcode) : ReadsFault (s.raise c w) (faultCode c) w :=
  ⟨rfl, rfl, rfl, rfl⟩

/-- Settles O19: the push and the jump with room, fault entry without. -/
theorem callPushesOrOverflows : Obligations.CallPushesOrOverflows := by
  unfold Obligations.CallPushesOrOverflows
  refine fun s nnn => ⟨fun hroom => ?_, fun hfull => ?_⟩
  · exact ⟨_, execCall_of_push (State.push_of_room hroom s.pc) nnn, rfl, rfl, rfl, fun _ _ => rfl, fun _ => rfl, rfl⟩
  · exact ⟨_, execCall_of_full hfull nnn, rfl, readsFault_raise s .stackOverflow _⟩

/-- Settles O20: the pop and the jump with an entry in use, fault entry without. -/
theorem returnPopsOrUnderflows : Obligations.ReturnPopsOrUnderflows := by
  unfold Obligations.ReturnPopsOrUnderflows
  refine fun s => ⟨decode_encode .ret, fun hused => ?_, fun hempty => ?_⟩
  · exact ⟨_, execRet_of_pop (State.pop_of_nonempty hused), Nat.sub_add_cancel hused, rfl, fun _ _ => rfl, fun _ => rfl, rfl⟩
  · exact ⟨_, execRet_of_empty hempty, rfl, readsFault_raise s .stackUnderflow _⟩

/-- Settles O21: the return pops the address that the call pushed. -/
theorem returnUndoesCall : Obligations.ReturnUndoesCall := by
  unfold Obligations.ReturnUndoesCall
  intro s nnn hroom
  have hpush := State.push_of_room hroom s.pc
  have hpop := State.pop_setPc_of_push hpush nnn
  exact ⟨_, _, execCall_of_push hpush nnn, execRet_of_pop hpop, rfl, rfl, fun _ _ => rfl, fun _ => rfl, rfl⟩

/-! ### Who changes the advanced `PC` -/

@[simp] theorem pc_drawPixel (k : Nat) (bit : Bool) (s : State) : (drawPixel k bit s).pc = s.pc := by
  unfold drawPixel
  dsimp only
  split <;> rfl

@[simp] theorem pc_drawRow (ox oy : Byte) (row : Nat) (s : State) : (drawRow ox oy row s).pc = s.pc :=
  forEach_keeps State.pc (fun _ => pc_drawPixel _ _) 8 s

@[simp] theorem pc_storeRegs (n : Nat) (s : State) : (storeRegs n s).pc = s.pc :=
  forEach_keeps State.pc (by intros; rfl) n s

@[simp] theorem pc_loadRegs (n : Nat) (s : State) : (loadRegs n s).pc = s.pc :=
  forEach_keeps State.pc (by intros; rfl) n s

/-- Settles O42: the ten named instructions are of the listed forms, and each other one keeps `PC`, its loops and its wait
included. -/
theorem onlyControlTransfersChangePc : Obligations.OnlyControlTransfersChangePc := by
  unfold Obligations.OnlyControlTransfersChangePc
  intro i s t h hne
  cases i with
  | ret | jp _ | call _ | seByte _ _ | sneByte _ _ | seReg _ _ | sneReg _ _ | jpV0 _ | skp _ | sknp _ => simp
  | ldVxK x =>
    obtain ⟨c, -, rfl⟩ | ⟨-, rfl⟩ := execLdVxK_cases h <;> exact absurd rfl hne
  | drw x y n =>
    cases h
    exact absurd (forEach_keeps State.pc (pc_drawRow _ _) _ _) hne
  | ldMemVx x =>
    cases h
    exact absurd (pc_storeRegs _ _) hne
  | ldVxMem x =>
    cases h
    exact absurd (pc_loadRegs _ _) hne
  | _ =>
    cases h
    exact absurd rfl hne

end Sys2Proof.Machine
end

section
/-!
The load, arithmetic, logic, shift and random instructions (O9 to O16): each answers one register write, or a result and its flag
written in that order (R21), so what either write does is said once; beside it, what the results and the flags are as numbers.
-/

namespace Sys2Proof.Machine

/-! ### The write of one register -/

theorem State.getV_setV_self (s : State) (x : Reg) (b : Byte) : (s.setV x b).getV x = b := by
  rw [State.getV_setV, if_pos rfl]

/-- Writing back what a register holds changes nothing. -/
theorem State.setV_eq_self (s : State) {x : Reg} {b : Byte} (h : b = s.getV x) : s.setV x b = s := by
  simp only [h, State.setV, State.getV, Vector.set_getElem_self]

theorem onlyRegs_setV (s : State) (x : Reg) (b : Byte) : OnlyRegs [x] s (s.setV x b) := by
  refine ⟨fun r hr => ?_, fun _ => rfl, rfl⟩
  rw [State.getV_setV, if_neg (List.ne_of_not_mem_cons hr)]

/-- What every instruction without a flag answers: the result in the destination, and nothing else changes. -/
theorem next_setV_spec (s : State) (x : Reg) (b : Byte) :
    ∃ t, (.next (s.setV x b) : Result) = .next t ∧ t.getV x = b ∧ OnlyRegs [x] s t :=
  ⟨_, rfl, s.getV_setV_self x b, onlyRegs_setV s x b⟩

/-! ### The write of a result and its flag -/

theorem onlyRegs_writeResultThenFlag (s : State) (x : Reg) (b : Byte) (f : Bool) :
    OnlyRegs [x, vf] s (s.writeResultThenFlag x b f) := by
  refine ⟨fun r hr => ?_, fun _ => rfl, rfl⟩
  obtain ⟨hx, hvf⟩ : r ≠ x ∧ r ≠ vf := by simpa using hr
  rw [State.getV_writeResultThenFlag, if_neg hvf, if_neg hx]

/-- What every ALU instruction with a flag answers: the flag in VF, the result in any other destination, and nothing else
changes (R21). -/
theorem next_writeResultThenFlag_spec (s : State) (x : Reg) (b : Byte) (f : Bool) :
    ∃ t, (.next (s.writeResultThenFlag x b f) : Result) = .next t ∧ t.getV vf = bitByte f ∧ (x ≠ vf → t.getV x = b) ∧
      OnlyRegs [x, vf] s t := by
  refine ⟨_, rfl, ?_, fun hx => ?_, onlyRegs_writeResultThenFlag s x b f⟩
  · rw [State.getV_writeResultThenFlag, if_pos rfl]
  · rw [State.getV_writeResultThenFlag, if_neg hx, if_pos rfl]

/-! ### Flags and results as numbers -/

theorem bitByte_carryOut_toNat (a b : Byte) :
    (bitByte (carryOut a b)).toNat = if 255 < a.toNat + b.toNat then 1 else 0 := by
  simp only [bitByte_toNat, carryOut, decide_eq_true_eq]

theorem bitByte_notBorrow_toNat (a b : Byte) : (bitByte (notBorrow a b)).toNat = if b.toNat ≤ a.toNat then 1 else 0 := by
  simp only [bitByte_toNat, notBorrow, decide_eq_true_eq]

theorem notBorrow_self (a : Byte) : notBorrow a a = true :=
  decide_eq_true (Nat.le_refl _)

/-- Bit 0 is the remainder of the halving (R148). -/
theorem bitByte_shiftedOutRight_toNat (a : Byte) : (bitByte (shiftedOutRight a)).toNat = a.toNat % 2 := by
  rw [bitByte_toNat, shiftedOutRight, BitVec.getLsbD, Nat.testBit_zero]
  simp only [decide_eq_true_eq]
  split <;> omega

/-- Bit 7 is the carry of the doubling (R150). -/
theorem bitByte_shiftedOutLeft_toNat (a : Byte) : (bitByte (shiftedOutLeft a)).toNat = a.toNat / 128 := by
  rw [bitByte_toNat, shiftedOutLeft, BitVec.getLsbD, Nat.testBit_eq_decide_div_mod_eq]
  simp only [decide_eq_true_eq]
  split <;> omega

/-- The carry of a doubling is the old bit 7 (R153). -/
theorem bitByte_carryOut_self_toNat (a : Byte) : (bitByte (carryOut a a)).toNat = a.toNat / 128 := by
  rw [bitByte_carryOut_toNat]
  split <;> omega

/-- A difference of bytes is the difference of their numbers modulo 256. -/
theorem toNat_sub_eq_emod (a b : Byte) : ((a - b).toNat : Int) = ((a.toNat : Int) - b.toNat) % 256 := by
  rw [BitVec.toNat_sub]
  omega

/-! ### The instructions without a flag -/

/-- Settles O9: each is one register write, of the immediate or of the other register. -/
theorem loadByteAndCopyRegister : Obligations.LoadByteAndCopyRegister := by
  unfold Obligations.LoadByteAndCopyRegister
  exact fun s x y kk => ⟨decode_encode (.ldByte x kk), next_setV_spec s x kk,
    decode_encode (.ldReg x y), next_setV_spec s x (s.getV y)⟩

/-- Settles O10: one register write, of the wrapped sum. -/
theorem addImmediateHasNoFlag : Obligations.AddImmediateHasNoFlag := by
  unfold Obligations.AddImmediateHasNoFlag
  intro s x kk
  obtain ⟨t, hnext, hresult, honly⟩ := next_setV_spec s x (s.getV x + kk)
  exact ⟨decode_encode (.addByte x kk), t, hnext, by rw [hresult, BitVec.toNat_add], honly⟩

/-- Settles O11: each is one register write, of the two registers joined bit by bit. -/
theorem logicIsBitwiseAndLeavesVf : Obligations.LogicIsBitwiseAndLeavesVf := by
  unfold Obligations.LogicIsBitwiseAndLeavesVf
  refine fun s x y => ⟨?_, ?_, ?_⟩
  · obtain ⟨t, hnext, hresult, honly⟩ := next_setV_spec s x (s.getV x ||| s.getV y)
    exact ⟨t, hnext, honly, fun k => by rw [hresult, BitVec.getLsbD_or]⟩
  · obtain ⟨t, hnext, hresult, honly⟩ := next_setV_spec s x (s.getV x &&& s.getV y)
    exact ⟨t, hnext, honly, fun k => by rw [hresult, BitVec.getLsbD_and]⟩
  · obtain ⟨t, hnext, hresult, honly⟩ := next_setV_spec s x (s.getV x ^^^ s.getV y)
    exact ⟨t, hnext, honly, fun k => by rw [hresult, BitVec.getLsbD_xor]⟩

/-- Settles O15: one register write after the draw is counted; no bit is both in the mask and outside it. -/
theorem randomByteIsMasked : Obligations.RandomByteIsMasked := by
  unfold Obligations.RandomByteIsMasked
  intro s x kk
  obtain ⟨t, hnext, hresult, hregs, hmem, hframe⟩ := next_setV_spec s.rand.2 x (s.rand.1 &&& kk)
  have hmasked : t.getV x &&& ~~~kk = 0#8 := by
    rw [hresult, BitVec.and_assoc, BitVec.and_not_self]
    exact BitVec.and_zero
  exact ⟨t, hnext, hresult, hmasked, hregs, hmem, hframe⟩

/-! ### The instructions with a flag -/

/-- Settles O12: the carry, and the wrapped sum. -/
theorem addRegistersSetsCarry : Obligations.AddRegistersSetsCarry := by
  unfold Obligations.AddRegistersSetsCarry
  intro s x y
  obtain ⟨t, hnext, hflag, hresult, honly⟩ :=
    next_writeResultThenFlag_spec s x (s.getV x + s.getV y) (carryOut (s.getV x) (s.getV y))
  exact ⟨decode_encode (.addReg x y), t, hnext, by rw [hflag, bitByte_carryOut_toNat],
    fun hx => by rw [hresult hx, BitVec.toNat_add], honly⟩

/-- What a subtraction answers, whichever way round its operands stand (R147, R149). -/
theorem next_subtract_spec (s : State) (x : Reg) (a b : Byte) :
    ∃ t, (.next (s.writeResultThenFlag x (a - b) (notBorrow a b)) : Result) = .next t ∧
      (t.getV vf).toNat = (if b.toNat ≤ a.toNat then 1 else 0) ∧
      (x ≠ vf → ((t.getV x).toNat : Int) = ((a.toNat : Int) - b.toNat) % 256) ∧ OnlyRegs [x, vf] s t := by
  obtain ⟨t, hnext, hflag, hresult, honly⟩ := next_writeResultThenFlag_spec s x (a - b) (notBorrow a b)
  exact ⟨t, hnext, by rw [hflag, bitByte_notBorrow_toNat], fun hx => by rw [hresult hx, toNat_sub_eq_emod], honly⟩

/-- Settles O13: `SUB` and `SUBN` are one subtraction with the operands either way round. -/
theorem subtractSetsNotBorrow : Obligations.SubtractSetsNotBorrow := by
  unfold Obligations.SubtractSetsNotBorrow
  exact fun s x y => ⟨decode_encode (.sub x y), next_subtract_spec s x (s.getV x) (s.getV y),
    decode_encode (.subn x y), next_subtract_spec s x (s.getV y) (s.getV x)⟩

/-- Settles O14: the bit shifted out, and the halved or doubled byte. -/
theorem shiftSetsBitShiftedOut : Obligations.ShiftSetsBitShiftedOut := by
  unfold Obligations.ShiftSetsBitShiftedOut
  refine fun s x y => ⟨?_, ?_⟩
  · obtain ⟨t, hnext, hflag, hresult, honly⟩ :=
      next_writeResultThenFlag_spec s x (s.getV x >>> 1) (shiftedOutRight (s.getV x))
    exact ⟨t, hnext, by rw [hflag, bitByte_shiftedOutRight_toNat],
      fun hx => by rw [hresult hx, BitVec.toNat_ushiftRight, Nat.shiftRight_one], honly⟩
  · obtain ⟨t, hnext, hflag, hresult, honly⟩ :=
      next_writeResultThenFlag_spec s x (s.getV x <<< 1) (shiftedOutLeft (s.getV x))
    exact ⟨t, hnext, by rw [hflag, bitByte_shiftedOutLeft_toNat],
      fun hx => by rw [hresult hx, BitVec.toNat_shiftLeft, Nat.shiftLeft_eq, Nat.pow_one], honly⟩

/-! ### The same register as both operands -/

/-- What subtracting a register from itself answers, in either order of the operands (R153). -/
theorem next_subtract_self_spec (s : State) (x : Reg) :
    ∃ t, (.next (s.writeResultThenFlag x (s.getV x - s.getV x) (notBorrow (s.getV x) (s.getV x))) : Result) = .next t ∧
      t.getV vf = 1#8 ∧ (x ≠ vf → t.getV x = 0#8) := by
  obtain ⟨t, hnext, hflag, hresult, -⟩ :=
    next_writeResultThenFlag_spec s x (s.getV x - s.getV x) (notBorrow (s.getV x) (s.getV x))
  exact ⟨t, hnext, by rw [hflag, notBorrow_self]; rfl, fun hx => by rw [hresult hx, BitVec.sub_self]⟩

/-- Settles O16: joined with itself a byte is itself or 0, a doubled byte carries its bit 7, and a byte less itself borrows
nothing. -/
theorem sameRegisterAsBothOperands : Obligations.SameRegisterAsBothOperands := by
  unfold Obligations.SameRegisterAsBothOperands
  refine fun s x => ⟨?_, ?_, ?_, ?_, ?_, next_subtract_self_spec s x, next_subtract_self_spec s x⟩
  · exact congrArg Host.Outcome.next (s.setV_eq_self rfl)
  · exact congrArg Host.Outcome.next (s.setV_eq_self BitVec.or_self)
  · exact congrArg Host.Outcome.next (s.setV_eq_self BitVec.and_self)
  · exact ⟨_, rfl, (s.getV_setV_self x _).trans BitVec.xor_self⟩
  · obtain ⟨t, hnext, hflag, hresult, -⟩ :=
      next_writeResultThenFlag_spec s x (s.getV x + s.getV x) (carryOut (s.getV x) (s.getV x))
    refine ⟨t, hnext, by rw [hflag, bitByte_carryOut_self_toNat], fun hx => ?_⟩
    rw [hresult hx, BitVec.toNat_add, two_mul]

end Sys2Proof.Machine
end

section
/-!
The pixel buffer (spec/42_display.md, O36 to O38 and O40). A draw is a loop of loops over single pixels, and what each of the
three levels does is one relation, `Flips` of the entries it draws on; it composes over disjoint sets of entries, which the pixels
of a sprite are, a sprite being smaller than the screen.
-/

namespace Sys2Proof.Machine

/-! ### Flipping a set of entries -/

/-- Some entry of `S` is 1: drawing on all of `S` collides (R171). -/
def State.Collides (s : State) (S : Set Nat) : Prop := ∃ k, k < 2048 ∧ k ∈ S ∧ s.pixel k = true

/-- Nothing changes but the general registers and the pixel buffer. -/
def OnlyRegsAndPixels (s t : State) : Prop := t = { s with v := t.v, pb := t.pb }

theorem OnlyRegsAndPixels.trans {s t u : State} (h : OnlyRegsAndPixels s t) (h' : OnlyRegsAndPixels t u) :
    OnlyRegsAndPixels s u :=
  Eq.trans h' (congrArg (fun r : State => { r with v := u.v, pb := u.pb }) h)

theorem OnlyRegsAndPixels.i_eq {s t : State} (h : OnlyRegsAndPixels s t) : t.i = s.i := by rw [h]

theorem OnlyRegsAndPixels.mem_eq {s t : State} (h : OnlyRegsAndPixels s t) : t.mem = s.mem := by rw [h]

/-- `t` is `s` with the entries of `S` flipped and VF set if one of them was 1; nothing else changes (R171). -/
structure Flips (S : Set Nat) (s t : State) : Prop where
  pixel_mem : ∀ k, k < 2048 → k ∈ S → t.pixel k = !s.pixel k
  pixel_notMem : ∀ k, k < 2048 → k ∉ S → t.pixel k = s.pixel k
  vf_collision : s.Collides S → t.getV vf = 1#8
  vf_noCollision : ¬ s.Collides S → t.getV vf = s.getV vf
  regs : SameRegsBut [vf] s t
  frame : OnlyRegsAndPixels s t

theorem Flips.refl (s : State) : Flips ∅ s s where
  pixel_mem _ _ h := h.elim
  pixel_notMem _ _ _ := rfl
  vf_collision h := by
    obtain ⟨_, _, hmem, _⟩ := h
    exact hmem.elim
  vf_noCollision _ := rfl
  regs _ _ := rfl
  frame := rfl

/-- After flips outside of `S`, drawing on `S` collides as it did before. -/
theorem Flips.collides_iff {S S' : Set Nat} {s t : State} (hd : Disjoint S S') (h : Flips S s t) :
    t.Collides S' ↔ s.Collides S' := by
  have hkept : ∀ k, k < 2048 → k ∈ S' → t.pixel k = s.pixel k := fun k hk hS' =>
    h.pixel_notMem k hk (Set.disjoint_right.1 hd hS')
  constructor
  · rintro ⟨k, hk, hS', hon⟩
    exact ⟨k, hk, hS', hkept k hk hS' ▸ hon⟩
  · rintro ⟨k, hk, hS', hon⟩
    exact ⟨k, hk, hS', (hkept k hk hS').trans hon⟩

theorem State.collides_union (s : State) (S S' : Set Nat) : s.Collides (S ∪ S') ↔ s.Collides S ∨ s.Collides S' := by
  simp only [State.Collides, Set.mem_union, or_and_right, and_or_left, exists_or]

/-- Flips of disjoint sets of entries, one after the other, are the flips of them all. -/
theorem Flips.trans {S S' : Set Nat} {s t u : State} (hd : Disjoint S S') (h : Flips S s t) (h' : Flips S' t u) :
    Flips (S ∪ S') s u where
  pixel_mem k hk hmem := by
    rcases hmem with hS | hS'
    · rw [h'.pixel_notMem k hk (Set.disjoint_left.1 hd hS), h.pixel_mem k hk hS]
    · rw [h'.pixel_mem k hk hS', h.pixel_notMem k hk (Set.disjoint_right.1 hd hS')]
  pixel_notMem k hk hmem := by
    obtain ⟨hS, hS'⟩ : k ∉ S ∧ k ∉ S' := not_or.1 hmem
    rw [h'.pixel_notMem k hk hS', h.pixel_notMem k hk hS]
  vf_collision hc := by
    by_cases hS' : t.Collides S'
    · exact h'.vf_collision hS'
    · have hS := ((s.collides_union S S').1 hc).resolve_right (mt (h.collides_iff hd).2 hS')
      rw [h'.vf_noCollision hS', h.vf_collision hS]
  vf_noCollision hc := by
    obtain ⟨hS, hS'⟩ := not_or.1 (mt (s.collides_union S S').2 hc)
    rw [h'.vf_noCollision (mt (h.collides_iff hd).1 hS'), h.vf_noCollision hS]
  regs r hr := (h'.regs r hr).trans (h.regs r hr)
  frame := h.frame.trans h'.frame

/-- A loop whose passes flip disjoint sets of entries flips them all. What a pass flips may rest on what no pass changes. -/
theorem forEach_flips {body : Nat → State → State} {S : Nat → Set Nat} {n : Nat} {s : State}
    (hd : ∀ i j, i < j → j < n → Disjoint (S i) (S j))
    (hbody : ∀ k t, k < n → OnlyRegsAndPixels s t → Flips (S k) t (body k t)) :
    Flips (⋃ k < n, S k) s (forEach n body s) := by
  refine forEach_induct (P := fun m t => Flips (⋃ k < m, S k) s t) (by simpa using Flips.refl s) fun m t hm ht => ?_
  rw [Set.biUnion_lt_succ]
  exact ht.trans (Set.disjoint_iUnion₂_left.2 fun i hi => hd i m hi hm) (hbody m t hm ht.frame)

/-! ### One pixel -/

/-- Drawing a 0 bit changes nothing (R171). -/
theorem drawPixel_false (k : Nat) (s : State) : drawPixel k false s = s := by
  have hpb : (s.setPixel k (s.pixel k)).pb = s.pb := by
    refine State.pb_ext fun j _ => ?_
    rw [State.pixel_setPixel]
    split
    next h => simp only [State.pixel, Config.pbEntries, h]
    next => rfl
  calc drawPixel k false s
      _ = s.setPixel k (s.pixel k) := by simp [drawPixel]
      _ = s := congrArg (fun pb => { s with pb := pb }) hpb

/-- Drawing a 1 bit flips its entry (R171). -/
theorem flips_drawPixel_true {k : Nat} (hk : k < 2048) (s : State) : Flips {k} s (drawPixel k true s) := by
  have hpixel : ∀ j, j < 2048 → (drawPixel k true s).pixel j = if j = k then !s.pixel k else s.pixel j := by
    intro j hj
    have hflag : ∀ c : Bool, (if c then s.setFlag true else s).pixel j = s.pixel j := by intro c; cases c <;> rfl
    simp only [drawPixel, State.pixel_setPixel, hflag, Nat.mod_eq_of_lt hj, Nat.mod_eq_of_lt hk, Bool.xor_true]
  have hvf : (drawPixel k true s).getV vf = if s.pixel k then 1#8 else s.getV vf := by
    cases h : s.pixel k <;> simp [drawPixel, h, State.getV_congr (State.setPixel_fields _ _ _).1, State.getV_setFlag, bitByte]
  have hcollides : s.Collides {k} ↔ s.pixel k = true := by simp [State.Collides, hk]
  refine ⟨?_, ?_, ?_, ?_, ?_, ?_⟩
  · rintro j hj rfl
    rw [hpixel j hj, if_pos rfl]
  · intro j hj hne
    rw [hpixel j hj, if_neg (show j ≠ k from hne)]
  · intro hc
    rw [hvf, if_pos (hcollides.1 hc)]
  · intro hc
    rw [hvf, if_neg (mt hcollides.2 hc)]
  · intro r hr
    exact getV_drawPixel_of_ne_vf (List.ne_of_not_mem_cons hr) k true s
  · unfold drawPixel
    dsimp only
    split <;> rfl

/-! ### The rows of a sprite -/

theorem pixelIndex_lt (ox oy : Byte) (row col : Nat) : pixelIndex ox oy row col < 2048 :=
  Nat.mod_lt _ (by decide)

/-- The pixels of a sprite land on entries of their own: 16 rows of 8 columns are smaller than the screen, even where they
wrap. -/
theorem pixelIndex_inj {ox oy : Byte} {row row' col col' : Nat} (hrow : row < 16) (hrow' : row' < 16) (hcol : col < 8)
    (hcol' : col' < 8) (h : pixelIndex ox oy row col = pixelIndex ox oy row' col') : row = row' ∧ col = col' := by
  simp only [pixelIndex, Config.pbWidth, Config.pbEntries] at h
  omega

/-- The entry under one column of a sprite row, if the row's byte has a 1 bit there. -/
def columnEntries (ox oy b : Byte) (row col : Nat) : Set Nat :=
  {k | spriteBit b col = true ∧ pixelIndex ox oy row col = k}

/-- The entries under the 1 bits of a sprite row. -/
def rowEntries (ox oy b : Byte) (row : Nat) : Set Nat :=
  ⋃ col < 8, columnEntries ox oy b row col

theorem mem_rowEntries {ox oy b : Byte} {row k : Nat} :
    k ∈ rowEntries ox oy b row ↔ ∃ col, col < 8 ∧ spriteBit b col = true ∧ pixelIndex ox oy row col = k := by
  simp only [rowEntries, columnEntries, Set.mem_iUnion, Set.mem_ofPred_eq, exists_prop]

theorem flips_drawPixel (ox oy b : Byte) (row col : Nat) (s : State) :
    Flips (columnEntries ox oy b row col) s (drawPixel (pixelIndex ox oy row col) (spriteBit b col) s) := by
  cases hbit : spriteBit b col with
  | false =>
    rw [drawPixel_false, show columnEntries ox oy b row col = ∅ by simp [columnEntries, hbit]]
    exact Flips.refl s
  | true =>
    rw [show columnEntries ox oy b row col = {pixelIndex ox oy row col} by ext k; simp [columnEntries, hbit, eq_comm]]
    exact flips_drawPixel_true (pixelIndex_lt ox oy row col) s

theorem flips_drawRow (ox oy : Byte) {row : Nat} (hrow : row < 16) (s : State) :
    Flips (rowEntries ox oy (s.memRead (s.ea row)) row) s (drawRow ox oy row s) := by
  refine forEach_flips (fun i j hij hj => Set.disjoint_left.2 ?_) fun col t _ _ => flips_drawPixel _ _ _ _ _ t
  rintro k ⟨-, hi⟩ ⟨-, hj'⟩
  exact hij.ne (pixelIndex_inj hrow hrow (hij.trans hj) hj (hi.trans hj'.symm)).2

theorem disjoint_rowEntries {ox oy b b' : Byte} {row row' : Nat} (hrow : row < 16) (hrow' : row' < 16) (hne : row ≠ row') :
    Disjoint (rowEntries ox oy b row) (rowEntries ox oy b' row') := by
  refine Set.disjoint_left.2 fun k hk hk' => ?_
  obtain ⟨col, hcol, -, rfl⟩ := mem_rowEntries.1 hk
  obtain ⟨col', hcol', -, heq⟩ := mem_rowEntries.1 hk'
  exact hne (pixelIndex_inj hrow hrow' hcol hcol' heq.symm).1

/-! ### The whole sprite -/

/-- The entries under the 1 bits of the sprite's rows are those that the statements speak of. -/
theorem iUnion_rowEntries (s : State) (x y : Reg) (n : Nibble) :
    (⋃ row < n.toNat, rowEntries (s.getV x) (s.getV y) (s.memRead (s.ea row)) row) = {k | s.underSprite x y n k} := by
  ext k
  simp only [Set.mem_iUnion, mem_rowEntries, exists_prop, Set.mem_ofPred_eq, State.underSprite]
  constructor
  · rintro ⟨row, hrow, col, hcol, hbit, hk⟩
    exact ⟨row, col, hrow, hcol, hbit, hk⟩
  · rintro ⟨row, col, hrow, hcol, hbit, hk⟩
    exact ⟨row, hrow, col, hcol, hbit, hk⟩

/-- `DRW` flips the entries under its sprite, once VF is cleared (R171). -/
theorem execDrw_flips (x y : Reg) (n : Nibble) (s : State) :
    ∃ t, execDrw x y n s = .next t ∧ Flips {k | s.underSprite x y n k} (s.setFlag false) t := by
  refine ⟨_, rfl, ?_⟩
  rw [← iUnion_rowEntries]
  refine forEach_flips (fun i j hij hj => disjoint_rowEntries (by omega) (by omega) hij.ne) fun row t hrow ht => ?_
  have hbyte : t.memRead (t.ea row) = s.memRead (s.ea row) := by
    rw [State.memRead_congr ht.mem_eq, State.ea, ht.i_eq]
    rfl
  rw [← hbyte]
  exact flips_drawRow _ _ (by omega) t

/-! ### The statements about the pixel buffer -/

/-- Settles O36: a clear of the buffer alone. -/
theorem clearScreenClearsAllPixels : Obligations.ClearScreenClearsAllPixels := by
  unfold Obligations.ClearScreenClearsAllPixels
  exact fun s => ⟨s.clearPixels, rfl, s.pixel_clearPixels, fun _ _ => rfl, fun _ => rfl, rfl⟩

/-- Settles O37: the flips of the sprite's entries, from a VF of 0. -/
theorem drawFlipsSpritePixels : Obligations.DrawFlipsSpritePixels := by
  unfold Obligations.DrawFlipsSpritePixels
  intro s x y n
  obtain ⟨t, hnext, hflips⟩ := execDrw_flips x y n s
  have hframe : OnlyRegsAndPixels s t := hflips.frame
  refine ⟨t, hnext, hflips.pixel_mem, hflips.pixel_notMem, hflips.vf_collision, fun hoff => ?_, fun r hr => ?_,
    State.memRead_congr hframe.mem_eq, hframe⟩
  · rw [hflips.vf_noCollision ?_, State.getV_setFlag, if_pos rfl]
    · rfl
    · rintro ⟨k, hk, hunder, hon⟩
      exact Bool.false_ne_true ((hoff k hk hunder).symm.trans hon)
  · rw [hflips.regs r hr, State.getV_setFlag, if_neg (List.ne_of_not_mem_cons hr)]

/-- The sprite depends on its two origin registers, on `I` and on memory alone. -/
theorem underSprite_congr {s t : State} {x y : Reg} (hx : t.getV x = s.getV x) (hy : t.getV y = s.getV y) (hi : t.i = s.i)
    (hmem : SameMemory s t) (n : Nibble) (k : Nat) : t.underSprite x y n k ↔ s.underSprite x y n k := by
  simp only [State.underSprite, hx, hy, hi, hmem]

/-- Settles O38: the first draw leaves the second one its sprite, so each entry under it is flipped back, and the second collides
where the first found a 0. -/
theorem drawTwiceRestores : Obligations.DrawTwiceRestores := by
  unfold Obligations.DrawTwiceRestores
  intro s x y n hx hy
  obtain ⟨t, hnext, hflip, hkeep, -, -, hregs, hmem, hframe⟩ := drawFlipsSpritePixels s x y n
  obtain ⟨u, hnext', hflip', hkeep', hcollision, hnoCollision, -⟩ := drawFlipsSpritePixels t x y n
  have hsame : ∀ k, t.underSprite x y n k ↔ s.underSprite x y n k :=
    underSprite_congr (hregs x (by simpa using hx)) (hregs y (by simpa using hy)) (OnlyRegsAndPixels.i_eq hframe) hmem n
  refine ⟨t, u, hnext, hnext', State.pb_ext fun k hk => ?_, ?_, fun hon => hnoCollision fun k hk hunder => ?_⟩
  · by_cases hunder : s.underSprite x y n k
    · rw [hflip' k hk ((hsame k).2 hunder), hflip k hk hunder, Bool.not_not]
    · rw [hkeep' k hk (mt (hsame k).1 hunder), hkeep k hk hunder]
  · rintro ⟨k, hk, hunder, hoff⟩
    exact hcollision ⟨k, hk, (hsame k).2 hunder, by rw [hflip k hk hunder, hoff]; rfl⟩
  · have hunder' := (hsame k).1 hunder
    rw [hflip k hk hunder', hon k hk hunder']
    rfl

/-! ### Who writes the pixel buffer -/

@[simp] theorem pb_storeRegs (n : Nat) (s : State) : (storeRegs n s).pb = s.pb :=
  forEach_keeps State.pb (by intros; rfl) n s

@[simp] theorem pb_loadRegs (n : Nat) (s : State) : (loadRegs n s).pb = s.pb :=
  forEach_keeps State.pb (by intros; rfl) n s

theorem State.pb_push {s t : State} {a : Addr} (h : s.push a = some t) : t.pb = s.pb := by
  obtain ⟨_, rfl⟩ := State.push_spec h
  rfl

theorem State.pb_pop {s t : State} {a : Addr} (h : s.pop = some (a, t)) : t.pb = s.pb := by
  obtain ⟨_, -, rfl⟩ := State.pop_spec h
  rfl

/-- Settles O40: the two named instructions are of the listed forms, and each other one keeps the buffer, its loops, its wait and
its fault included. -/
theorem onlyClsAndDrwWritePixels : Obligations.OnlyClsAndDrwWritePixels := by
  unfold Obligations.OnlyClsAndDrwWritePixels
  intro i s t h hne
  cases i with
  | cls => exact .inl rfl
  | drw x y n => exact .inr ⟨x, y, n, rfl⟩
  | ret =>
    obtain ⟨a, u, hpop, rfl⟩ | ⟨-, rfl⟩ := execRet_cases h
    · exact absurd (State.pb_pop hpop) hne
    · exact absurd rfl hne
  | call a =>
    obtain ⟨u, hpush, rfl⟩ | ⟨-, rfl⟩ := execCall_cases h
    · exact absurd (State.pb_push hpush) hne
    · exact absurd rfl hne
  | ldVxK x =>
    obtain ⟨c, -, rfl⟩ | ⟨-, rfl⟩ := execLdVxK_cases h <;> exact absurd rfl hne
  | ldMemVx x =>
    cases h
    exact absurd (pb_storeRegs _ _) hne
  | ldVxMem x =>
    cases h
    exact absurd (pb_loadRegs _ _) hne
  | rnd x kk =>
    cases h
    exact absurd rfl hne
  | _ =>
    cases h
    exact absurd (by simp) hne

end Sys2Proof.Machine
end

section
/-!
The key map, the key latch and the timers (O24 to O28): the key map as the least position of its table, the two tests and the
delivery that ask it for a code, and the moves between the timers and the general registers.
-/

namespace Sys2Proof.Machine

/-! ### The key map -/

/-- What `leastCode` answers from 0 on is the least position of the list that holds the host code (R186). -/
theorem leastCode_eq_some_iff {h k : Nat} {l : List Nat} :
    leastCode h 0 l = some k ↔ l[k]? = some h ∧ ∀ j, j < k → l[j]? ≠ some h := by
  constructor
  · intro e
    obtain ⟨k', rfl, hk, hmin⟩ := leastCode_spec e
    rw [Nat.zero_add]
    exact ⟨hk, hmin⟩
  · rintro ⟨hk, hmin⟩
    cases e : leastCode h 0 l with
    | none => exact absurd (List.mem_of_getElem? hk) ((leastCode_none h 0 l).1 e)
    | some d =>
      obtain ⟨k', rfl, hk', hmin'⟩ := leastCode_spec e
      obtain hlt | rfl | hgt := Nat.lt_trichotomy k' k
      · exact absurd hk' (hmin k' hlt)
      · rw [Nat.zero_add]
      · exact absurd hk (hmin' k hgt)

/-- What the table's list holds at a code is the code's entry. -/
theorem keymapTable_getElem?_eq_some_iff (p : Params) (h : Nat) (c : BitVec 4) :
    p.keymapTable.toList[c.toNat]? = some h ↔ p.keymapTable[c.toNat]'c.isLt = h := by
  simp [c.isLt]

/-- The host codes of the table are the entries of the sixteen codes. -/
theorem mem_keymapTable_iff (p : Params) (h : Nat) :
    h ∈ p.keymapTable.toList ↔ ∃ c : BitVec 4, p.keymapTable[c.toNat]'c.isLt = h := by
  simp only [← keymapTable_getElem?_eq_some_iff, List.mem_iff_getElem?]
  constructor
  · rintro ⟨k, hk⟩
    have hlt : k < 16 := by simpa using (List.getElem?_eq_some_iff.1 hk).1
    exact ⟨BitVec.ofNatLT k hlt, hk⟩
  · rintro ⟨c, hc⟩
    exact ⟨c.toNat, hc⟩

/-- Raw passthrough (R186). -/
theorem keyMap_of_raw {p : Params} (h : Nat) (hraw : p.keymapRaw = true) :
    keyMap p h = if h ≤ 15 then some (BitVec.ofNat 4 h) else none :=
  if_pos hraw

/-- Without raw passthrough the table is searched (R186). -/
theorem keyMap_of_table {p : Params} (h : Nat) (hraw : p.keymapRaw = false) :
    keyMap p h = (leastCode h 0 p.keymapTable.toList).map (BitVec.ofNat 4) := by
  rw [keyMap, hraw, if_neg Bool.false_ne_true]

section
variable {p : Params} {h : Nat} (hraw : p.keymapRaw = false)
include hraw

/-- A position found in the table fits the 4 bits of a code. -/
theorem keyMap_eq_some_iff_leastCode (c : BitVec 4) :
    keyMap p h = some c ↔ leastCode h 0 p.keymapTable.toList = some c.toNat := by
  rw [keyMap_of_table h hraw, Option.map_eq_some_iff]
  constructor
  · rintro ⟨k, hk, rfl⟩
    have hlt : k < 16 := by simpa using (List.getElem?_eq_some_iff.1 (leastCode_eq_some_iff.1 hk).1).1
    rw [hk, BitVec.toNat_ofNat, Nat.mod_eq_of_lt hlt]
  · intro hc
    exact ⟨c.toNat, hc, by rw [BitVec.ofNat_toNat, BitVec.setWidth_eq]⟩

theorem keyMap_eq_some_iff (c : BitVec 4) :
    keyMap p h = some c ↔
      p.keymapTable[c.toNat]'c.isLt = h ∧ ∀ d : BitVec 4, d < c → p.keymapTable[d.toNat]'d.isLt ≠ h := by
  simp only [keyMap_eq_some_iff_leastCode hraw, leastCode_eq_some_iff, ← keymapTable_getElem?_eq_some_iff, ne_eq]
  refine and_congr_right fun _ => ⟨fun hmin d hd => hmin d.toNat hd, fun hmin j hj => ?_⟩
  have hlt : j < 16 := hj.trans c.isLt
  exact hmin (BitVec.ofNatLT j hlt) hj

theorem keyMap_eq_none_iff : keyMap p h = none ↔ ∀ c : BitVec 4, p.keymapTable[c.toNat]'c.isLt ≠ h := by
  rw [keyMap_of_table h hraw, Option.map_eq_none_iff, leastCode_none, mem_keymapTable_iff, not_exists]

end

/-- Settles O25: the search of the table answers the least code there is; the sixteen default host codes are evaluated. -/
theorem keyMapIsLeastTableEntry : Obligations.KeyMapIsLeastTableEntry := by
  unfold Obligations.KeyMapIsLeastTableEntry
  refine ⟨fun p h => ⟨keyMap_of_raw h, fun hraw => ⟨keyMap_eq_some_iff hraw, keyMap_eq_none_iff hraw⟩⟩, ?_⟩
  decide

/-! ### The key latch and the instructions that read it -/

/-- A code is pressed: the latch holds a host code that the map gives that code (R180, R186). -/
theorem State.pressedCode_eq_some_iff (s : State) (c : BitVec 4) :
    s.pressedCode = some c ↔ ∃ h, s.key = some h ∧ keyMap s.params h = some c := by
  simp only [State.pressedCode, Option.bind_eq_some_iff]

/-- A code is loaded into a register as the number it is. -/
theorem setWidth_code_toNat (c : BitVec 4) : (c.setWidth 8).toNat = c.toNat :=
  BitVec.toNat_setWidth_of_le (by decide)

/-- The test of the two key skips compares the number of the code with all 8 bits of the register (R180, R181, D9). -/
theorem State.keyPressed_iff (s : State) (x : Reg) :
    s.keyPressed x = true ↔ ∃ h c, s.key = some h ∧ keyMap s.params h = some c ∧ c.toNat = (s.getV x).toNat := by
  have hcode : s.keyPressed x = true ↔ ∃ c, s.pressedCode = some c ∧ c.toNat = (s.getV x).toNat := by
    unfold State.keyPressed
    cases s.pressedCode with
    | none => simp
    | some c =>
      rw [beq_iff_eq, ← BitVec.toNat_inj, setWidth_code_toNat]
      simp
  rw [hcode, exists_comm]
  simp only [State.pressedCode_eq_some_iff, ← and_assoc, exists_and_right]

/-- What a skip answers, with the two cases of its condition apart (R123). -/
theorem next_skipIf_cases (s : State) {c : Bool} {p : Prop} (hc : c = true ↔ p) :
    ∃ t, (.next (s.skipIf c) : Result) = .next t ∧ OnlyPc s t ∧ (p → t.pc = s.pc + 2#12) ∧ (¬ p → t.pc = s.pc) := by
  classical
  obtain ⟨t, hnext, honly, hpc⟩ := next_skipIf_spec s hc
  refine ⟨t, hnext, honly, fun hp => ?_, fun hp => ?_⟩
  · apply BitVec.eq_of_toNat_eq
    rw [hpc, if_pos hp, BitVec.toNat_add]
    rfl
  · apply BitVec.eq_of_toNat_eq
    rw [hpc, if_neg hp]

/-- Settles O24: `SKP` skips on the test of the latch, `SKNP` on its negation. -/
theorem skipOnKey : Obligations.SkipOnKey := by
  unfold Obligations.SkipOnKey
  intro s x
  have hpressed := s.keyPressed_iff x
  have hnotPressed := Bool.not_iff_not.trans (not_congr hpressed)
  obtain ⟨t, hnext, honly, hskip, hstay⟩ := next_skipIf_cases s hnotPressed
  exact ⟨next_skipIf_cases s hpressed, t, hnext, honly, fun hp => hstay (not_not_intro hp), hskip⟩

/-- `LD Vx, K` with a matching key loads its code (R183). -/
theorem execLdVxK_of_some {s : State} {c : BitVec 4} (h : s.pressedCode = some c) (x : Reg) :
    execLdVxK x s = .next (s.setV x (c.setWidth 8)) := by
  simp only [execLdVxK, h]

/-- Settles O26: a matching key is one register write, and none is the wait. -/
theorem keyLoadTakesKeyOrWaits : Obligations.KeyLoadTakesKeyOrWaits := by
  unfold Obligations.KeyLoadTakesKeyOrWaits
  refine fun s x => ⟨fun h c hkey hcode => ?_, fun hnone => ?_⟩
  · obtain ⟨t, hnext, hresult, honly⟩ := next_setV_spec s x (c.setWidth 8)
    have hexec := execLdVxK_of_some ((s.pressedCode_eq_some_iff c).2 ⟨h, hkey, hcode⟩) x
    exact ⟨t, hexec.trans hnext, by rw [hresult, setWidth_code_toNat], honly⟩
  · exact execLdVxK_of_none (s.pressedCode_eq_none_iff.2 hnone) x

/-! ### The delivery of a key -/

/-- Whatever the CORE does, a host code that matches nothing, or none, is latched alone (R187). -/
theorem State.setKey_of_none {s : State} {k : Option Nat} (hk : k.bind (keyMap s.params) = none) :
    s.setKey k = { s with key := k } := by
  obtain ⟨c, -, hc, -⟩ | ⟨-, hset⟩ := State.setKey_cases k s
  · cases hk.symm.trans hc
  · exact hset

/-- A matching key wakes a waiting CORE (R187): the converse of the first case of `State.setKey_cases`. -/
theorem State.setKey_of_some {s : State} {k : Option Nat} {c : BitVec 4} (hs : s.runState = .waitingForKey)
    (hk : k.bind (keyMap s.params) = some c) :
    s.setKey k = { s with key := k, v := (s.setV s.waitReg (c.setWidth 8)).v, runState := .running } := by
  obtain ⟨c', -, hc, hset⟩ | ⟨hno, -⟩ := State.setKey_cases k s
  · cases hk.symm.trans hc
    exact hset
  · exact absurd ⟨hs, by rw [hk]; rfl⟩ hno

/-- A waiting CORE takes what the host writes to the latch (R245). -/
theorem hostAct_setKey_of_waiting {s : State} (hs : s.runState = .waitingForKey) (k : Option Nat) :
    hostAct (.setKey k) s = .next (s.setKey k) := by
  rw [hostAct_write (by simp), hs]
  rfl

/-- Settles O27: a matching key is the wake, with one register write; any other leaves the wait. -/
theorem keyDeliveryWakesExactlyMatching : Obligations.KeyDeliveryWakesExactlyMatching := by
  unfold Obligations.KeyDeliveryWakesExactlyMatching
  intro s h hs
  refine ⟨fun c hcode => ?_, fun hnone => ?_, ?_⟩
  · obtain ⟨hregs, -, -⟩ := onlyRegs_setV s s.waitReg (c.setWidth 8)
    have hloaded : ((s.setV s.waitReg (c.setWidth 8)).getV s.waitReg).toNat = c.toNat := by
      rw [State.getV_setV_self, setWidth_code_toNat]
    rw [hostAct_setKey_of_waiting hs, State.setKey_of_some (k := some h) hs hcode]
    exact ⟨_, rfl, hloaded, rfl, rfl, hregs, fun _ => rfl, rfl⟩
  · rw [hostAct_setKey_of_waiting hs, State.setKey_of_none (k := some h) hnone]
  · rw [hostAct_setKey_of_waiting hs, State.setKey_of_none rfl]

/-! ### The timers -/

/-- Settles O28: one register write, and two updates of one timer alone. -/
theorem timerReadsAndWrites : Obligations.TimerReadsAndWrites := by
  unfold Obligations.TimerReadsAndWrites
  exact fun s x => ⟨decode_encode (.ldVxDt x), next_setV_spec s x s.dt,
    decode_encode (.ldDtVx x), ⟨_, rfl, rfl, fun _ _ => rfl, fun _ => rfl, rfl⟩,
    decode_encode (.ldStVx x), ⟨_, rfl, rfl, fun _ _ => rfl, fun _ => rfl, rfl⟩⟩

end Sys2Proof.Machine
end

section
/-!
The address register and memory (spec/44_index_memory.md, O31 to O35): the three writers of `I` update it alone, the two
instructions that store write bytes at ascending effective addresses, which is said once for both, and the loads read from where
they stored.
-/

namespace Sys2Proof.Machine

/-! ### Writes of the address register -/

/-- What every writer of `I` answers: the new value, and nothing else changes (R200 to R202). -/
theorem next_setI_spec (s : State) (a : Addr) {p : Addr → Prop} (hp : p a) :
    ∃ t, (.next (s.setI a) : Result) = .next t ∧ p t.i ∧ SameRegsBut [] s t ∧ SameMemory s t ∧ t = { s with i := t.i } :=
  ⟨_, rfl, hp, fun _ _ => rfl, fun _ => rfl, rfl⟩

/-- Five times a byte stays below 4096, so the address of a glyph does not wrap (R202). -/
theorem State.glyphAddr_toNat (s : State) (x : Reg) : (s.glyphAddr x).toNat = (s.getV x).toNat * 5 := by
  have hbyte : (s.getV x).toNat < 256 := (s.getV x).isLt
  rw [State.glyphAddr, zext12, BitVec.toNat_mul, BitVec.toNat_setWidth]
  change (s.getV x).toNat % 4096 * 5 % 4096 = _
  omega

/-- Settles O31: three updates of `I` alone. -/
theorem addressRegisterWrites : Obligations.AddressRegisterWrites := by
  unfold Obligations.AddressRegisterWrites
  exact fun s x nnn => ⟨next_setI_spec s nnn (p := (· = nnn)) rfl,
    next_setI_spec s _ (p := (·.toNat = _)) (add_zext12_toNat s.i (s.getV x)),
    next_setI_spec s _ (p := (·.toNat = _)) (s.glyphAddr_toNat x)⟩

/-! ### Effective addresses -/

/-- The effective address is the sum masked to 12 bits (R206). -/
theorem State.ofNat_add_mod_eq_ea (s : State) (k : Nat) : BitVec.ofNat 12 ((s.i.toNat + k) % 4096) = s.ea k := by
  apply BitVec.eq_of_toNat_eq
  simp [State.ea, BitVec.toNat_add]

/-- Fewer bytes than memory holds lie at addresses of their own, even where they wrap. -/
theorem State.ea_inj {s : State} {j k : Nat} (hj : j < 4096) (hk : k < 4096) (h : s.ea j = s.ea k) : j = k := by
  have hoffset : BitVec.ofNat 12 j = BitVec.ofNat 12 k := (BitVec.add_right_inj s.i).1 h
  have hmod := congrArg BitVec.toNat hoffset
  rwa [BitVec.toNat_ofNat, BitVec.toNat_ofNat, Nat.mod_eq_of_lt hj, Nat.mod_eq_of_lt hk] at hmod

/-- Effective addresses see nothing but `I`. -/
theorem State.ea_congr {s t : State} (h : t.i = s.i) (k : Nat) : t.ea k = s.ea k := by rw [State.ea, h, State.ea]

/-! ### Stores at ascending effective addresses -/

/-- `t` is `s` with `bytes 0` to `bytes (n - 1)` stored from `EA(0)` on; nothing else changes (R203, R204). -/
structure Stores (bytes : Nat → Byte) (n : Nat) (s t : State) : Prop where
  read : ∀ k, k < n → t.memRead (s.ea k) = bytes k
  outside : SameMemoryOutside s n t
  frame : t = { s with mem := t.mem }

theorem Stores.refl (bytes : Nat → Byte) (s : State) : Stores bytes 0 s s where
  read k hk := absurd hk k.not_lt_zero
  outside _ _ := rfl
  frame := rfl

/-- One byte more at the next effective address leaves those before it, the addresses being different. -/
theorem Stores.memWrite {bytes : Nat → Byte} {n : Nat} {s t : State} (hn : n < 4096) (h : Stores bytes n s t) :
    Stores bytes (n + 1) s (t.memWrite (s.ea n) (bytes n)) where
  read k hk := by
    rw [State.memRead_memWrite]
    split
    next heq => rw [State.ea_inj (by omega) hn heq]
    next hne =>
      have hkn : k ≠ n := fun e => hne (congrArg s.ea e)
      exact h.read k (by omega)
  outside a ha := by
    rw [State.memRead_memWrite, if_neg (ha n n.lt_succ_self), h.outside a fun k hk => ha k (by omega)]
  frame := congrArg (fun r : State => { r with mem := Memory.write (s.ea n).toNat (bytes n) t.mem }) h.frame

theorem Stores.v_eq {bytes : Nat → Byte} {n : Nat} {s t : State} (h : Stores bytes n s t) : t.v = s.v := by rw [h.frame]

theorem Stores.i_eq {bytes : Nat → Byte} {n : Nat} {s t : State} (h : Stores bytes n s t) : t.i = s.i := by rw [h.frame]

theorem Stores.onlyMemory {bytes : Nat → Byte} {n : Nat} {s t : State} (h : Stores bytes n s t) : OnlyMemory n s t :=
  ⟨fun r _ => State.getV_congr h.v_eq r, h.outside, h.frame⟩

/-- What was stored stands at the masked sums, in the way the statements write the address. -/
theorem Stores.memRead_ofNat {bytes : Nat → Byte} {n k : Nat} {s t : State} (h : Stores bytes n s t) (hk : k < n) :
    t.memRead (BitVec.ofNat 12 ((s.i.toNat + k) % 4096)) = bytes k := by
  rw [s.ofNat_add_mod_eq_ea, h.read k hk]

/-! ### The decimal digits -/

/-- The three bytes that `LD B` stores, in the order of their addresses (R203). -/
def decimalDigits (b : Byte) : Nat → Byte
  | 0 => hundreds b
  | 1 => tens b
  | _ => ones b

theorem execLdB_stores (x : Reg) (s : State) : ∃ t, execLdB x s = .next t ∧ Stores (decimalDigits (s.getV x)) 3 s t :=
  ⟨_, rfl, (((Stores.refl _ s).memWrite (by decide)).memWrite (by decide)).memWrite (by decide)⟩

/-- Settles O32: the three stored bytes as numbers. -/
theorem decimalDigitsStored : Obligations.DecimalDigitsStored := by
  unfold Obligations.DecimalDigitsStored
  intro s x
  obtain ⟨t, hnext, hstores⟩ := execLdB_stores x s
  have hfirst : s.ea 0 = s.i := BitVec.add_zero s.i
  refine ⟨decode_encode (.ldB x), t, hnext, ?_, ?_, ?_, hstores.onlyMemory⟩
  · rw [← hfirst, hstores.read 0 (by decide)]
    exact BitVec.toNat_udiv
  · rw [hstores.memRead_ofNat (by decide)]
    simp [decimalDigits, tens]
  · rw [hstores.memRead_ofNat (by decide)]
    exact BitVec.toNat_umod

/-! ### The registers stored and loaded -/

theorem regOf_toNat (r : Reg) : regOf r.toNat = r := by simp [regOf]

/-- The stores of the first n registers leave `I` and the registers, so each pass stores at the address and from the register that
the first state gives it. -/
theorem storeRegs_stores {n : Nat} (hn : n ≤ 4096) (s : State) : Stores (fun k => s.getV (regOf k)) n s (storeRegs n s) := by
  refine forEach_induct (P := fun m t => Stores _ m s t) (Stores.refl _ s) fun k t hk ht => ?_
  rw [State.ea_congr ht.i_eq, State.getV_congr ht.v_eq]
  exact ht.memWrite (bytes := fun k => s.getV (regOf k)) (by omega)

/-- Settles O33: register k is the k-th byte stored. -/
theorem registersStored : Obligations.RegistersStored := by
  unfold Obligations.RegistersStored
  intro s x
  have hstores := storeRegs_stores (n := x.toNat + 1) (by omega) s
  refine ⟨_, rfl, fun k hk => ?_, hstores.onlyMemory⟩
  rw [hstores.memRead_ofNat (Nat.lt_succ_of_le hk), regOf_toNat]

theorem loadRegs_frame (n : Nat) (s : State) : loadRegs n s = { s with v := (loadRegs n s).v } :=
  forEach_induct (P := fun _ t => t = { s with v := t.v }) rfl fun k t _ ht =>
    congrArg (fun r : State => { r with v := (t.setV (regOf k) (t.memRead (t.ea k))).v }) ht

/-- A register below n holds the byte at its effective address once the first n are loaded: its own pass loads it, and no later
one writes it. -/
theorem getV_loadRegs_of_lt {n : Nat} {r : Reg} (hr : r.toNat < n) (hn : n ≤ 16) (s : State) :
    (loadRegs n s).getV r = s.memRead (s.ea r.toNat) := by
  induction n with
  | zero => exact absurd hr r.toNat.not_lt_zero
  | succ n ih =>
    have hi : (loadRegs n s).i = s.i := by rw [loadRegs_frame]
    have hpass : loadRegs (n + 1) s = (loadRegs n s).setV (regOf n) (s.memRead (s.ea n)) := by
      rw [← State.ea_congr hi, ← State.memRead_congr (mem_loadRegs n s)]
      rfl
    rw [hpass, State.getV_setV]
    split
    next heq =>
      have hrn : r.toNat = n := by rw [heq, regOf, BitVec.toNat_ofNat, Nat.mod_eq_of_lt (by omega)]
      rw [hrn]
    next hne =>
      have hrn : r.toNat ≠ n := fun e => hne (e ▸ (regOf_toNat r).symm)
      exact ih (by omega) (by omega)

/-- Settles O34: the registers up to x are loaded, those above it left. -/
theorem registersLoaded : Obligations.RegistersLoaded := by
  unfold Obligations.RegistersLoaded
  intro s x
  refine ⟨_, rfl, fun k hk => ?_, fun r hr => getV_loadRegs_of_le hr s, State.memRead_congr (mem_loadRegs _ s),
    loadRegs_frame _ s⟩
  rw [s.ofNat_add_mod_eq_ea]
  exact getV_loadRegs_of_lt (Nat.lt_succ_of_le hk) x.isLt s

/-- Settles O35: the load reads the addresses that the store wrote, `I` being the same. -/
theorem loadUndoesStore : Obligations.LoadUndoesStore := by
  unfold Obligations.LoadUndoesStore
  intro s u x hi
  obtain ⟨t, hstore, hstored, -⟩ := registersStored s x
  refine ⟨t, hstore, fun hmem => ?_⟩
  obtain ⟨w, hload, hloaded, -⟩ := registersLoaded u x
  refine ⟨w, hload, fun k hk => ?_⟩
  rw [hloaded k hk, hi, State.memRead_congr hmem, hstored k hk]

end Sys2Proof.Machine
end

section
/-!
The timers at a boundary (R238, R239), and what every instruction answers (R220).
-/

namespace Sys2Proof.Machine

/-! ### The timers -/

/-- Counting down is clamped at 0 (R238). -/
theorem countDown_toNat_eq_ite (b : Byte) : (countDown b).toNat = if 0 < b.toNat then b.toNat - 1 else 0 := by
  rw [countDown_toNat]
  split <;> omega

/-- Settles O29: each counter is counted down on its own. -/
theorem tickClampsAtZero : Obligations.TickClampsAtZero := by
  unfold Obligations.TickClampsAtZero
  exact fun s => ⟨countDown_toNat_eq_ite s.dt, countDown_toNat_eq_ite s.st, fun _ _ => rfl, fun _ => rfl, rfl⟩

theorem State.timerAgent_of_active {s : State} (h : s.runState.active = true) :
    s.timerAgent = { s.ticks (Config.ticksAt s.boundary) with boundary := s.boundary + 1 } := by
  simp only [State.timerAgent, if_pos h]

theorem State.timerAgent_of_ended {s : State} (h : s.ended) : s.timerAgent = { s with boundary := s.boundary + 1 } := by
  simp only [State.timerAgent, h, Bool.false_eq_true, if_false]

/-- The TIMER agent writes the two counters and the count of boundaries, and nothing else (R239). -/
theorem State.timerAgent_frame (s : State) :
    s.timerAgent = { s with dt := s.timerAgent.dt, st := s.timerAgent.st, boundary := s.boundary + 1 } := by
  cases hs : s.runState.active with
  | true => simp only [State.timerAgent_of_active hs, State.ticks]
  | false => simp only [State.timerAgent_of_ended hs]

/-- Settles O30: the agent runs the ticks in an active state only. -/
theorem boundaryTicksAreFree : Obligations.BoundaryTicksAreFree := by
  unfold Obligations.BoundaryTicksAreFree
  refine fun s => ⟨fun hs => ?_, fun hs => ?_, fun n => s.ticks_succ n, s.timerAgent_frame⟩
  · rw [State.timerAgent_of_active hs]
    exact ⟨countDownBy_toNat _ s.dt, countDownBy_toNat _ s.st⟩
  · rw [State.timerAgent_of_ended hs]
    exact ⟨rfl, rfl⟩

/-! ### Every instruction answers -/

/-- Settles O39: `RET`, `CALL` and `LD Vx, K` answer in both of their outcomes, and every other instruction has one outcome. -/
theorem everyInstructionAnswersNextState : Obligations.EveryInstructionAnswersNextState := by
  unfold Obligations.EveryInstructionAnswersNextState
  intro i s
  cases i with
  | ret =>
    obtain hempty | hused := Nat.eq_zero_or_pos s.sp.val
    · exact ⟨_, execRet_of_empty hempty⟩
    · exact ⟨_, execRet_of_pop (State.pop_of_nonempty hused)⟩
  | call a =>
    obtain hfull | hroom := Nat.eq_or_lt_of_le (Nat.le_of_lt_succ s.sp.isLt)
    · exact ⟨_, execCall_of_full hfull a⟩
    · exact ⟨_, execCall_of_push (State.push_of_room hroom s.pc) a⟩
  | ldVxK x =>
    cases hcode : s.pressedCode with
    | none => exact ⟨_, execLdVxK_of_none hcode x⟩
    | some c => exact ⟨_, execLdVxK_of_some hcode x⟩
  | _ => exact ⟨_, rfl⟩

end Sys2Proof.Machine
end

section
/-!
The host at a boundary (O50, O55, O56, O60): what one action does, then how a boundary's list of them reaches the step.
-/

namespace Sys2Proof.Machine

/-! ### One action -/

theorem hostAct_of_active {a : HostAction} {s : State} (ha : ∀ image, a ≠ .reset image) (hs : s.runState.active = true) :
    hostAct a s = .next (s.hostWrite a) := by
  rw [hostAct_write ha, if_pos hs]

theorem hostAct_of_ended {a : HostAction} {s : State} (ha : ∀ image, a ≠ .reset image) (hs : s.ended) :
    hostAct a s = .next s := by
  rw [hostAct_write ha, hs, if_neg Bool.false_ne_true]

/-- Outside the key wait a delivered key is latched alone (R187). -/
theorem State.setKey_of_not_waiting {s : State} (hs : s.runState ≠ .waitingForKey) (k : Option Nat) :
    s.setKey k = { s with key := k } := by
  obtain ⟨c, hwait, -, -⟩ | ⟨-, hset⟩ := State.setKey_cases k s
  · exact absurd hwait hs
  · exact hset

/-- The delivery of a key reaches the latch, and with the wake the registers and `RUNSTATE` (R187). -/
theorem State.setKey_frame (s : State) (k : Option Nat) :
    s.setKey k = { s with v := (s.setKey k).v, key := k, runState := (s.setKey k).runState } := by
  obtain ⟨c, -, -, hset⟩ | ⟨-, hset⟩ := State.setKey_cases k s <;> rw [hset]

/-- The registers and `RUNSTATE` change only by the wake of a waiting CORE by a matching key (R187). -/
theorem hostAct_wakes_or_keeps {a : HostAction} {s t : State} (ha : ∀ image, a ≠ .reset image)
    (h : hostAct a s = .next t) :
    (s.runState = .waitingForKey ∧ t.runState = .running ∧
      ∃ h c, a = .setKey (some h) ∧ keyMap s.params h = some c ∧ t.v = (s.setV s.waitReg (c.setWidth 8)).v) ∨
    (t.v = s.v ∧ t.runState = s.runState) := by
  rw [hostAct_write ha] at h
  cases h
  split
  · cases a with
    | setKey k =>
      rw [State.hostWrite]
      obtain ⟨c, hwait, hcode, hset⟩ | ⟨-, hset⟩ := State.setKey_cases k s
      · obtain ⟨h, rfl, hh⟩ := Option.bind_eq_some_iff.1 hcode
        exact .inl ⟨hwait, by rw [hset], h, c, rfl, hh, by rw [hset]⟩
      · exact .inr (by rw [hset]; exact ⟨rfl, rfl⟩)
    | _ => exact .inr ⟨rfl, rfl⟩
  · exact .inr ⟨rfl, rfl⟩

/-- The seven fields a host action other than reset can reach: every other one it leaves (R245, R42). -/
theorem hostAct_frame {a : HostAction} {s t : State} (ha : ∀ image, a ≠ .reset image) (h : hostAct a s = .next t) :
    t = { s with
      v := t.v, key := t.key, runState := t.runState, pause := t.pause, cancel := t.cancel
      clockRate := t.clockRate, timerRate := t.timerRate } := by
  rw [hostAct_write ha] at h
  cases h
  split
  · cases a with
    | setKey k => rw [State.hostWrite, State.setKey_frame]
    | _ => rfl
  · rfl

/-- The latch, the two request flags and the two rates are each written only by the actions named after them (R245, R240). -/
theorem hostAct_writers {a : HostAction} {s t : State} (ha : ∀ image, a ≠ .reset image) (h : hostAct a s = .next t) :
    (t.key ≠ s.key → ∃ k, a = .setKey k ∧ t.key = k) ∧
    (t.pause ≠ s.pause → (a = .pause ∧ t.pause = true) ∨ (a = .resume ∧ t.pause = false)) ∧
    (t.cancel ≠ s.cancel → a = .cancel ∧ t.cancel = true) ∧
    (t.clockRate ≠ s.clockRate → a = .clockUp ∨ a = .clockDown) ∧
    (t.timerRate ≠ s.timerRate → a = .timerUp ∨ a = .timerDown) := by
  rw [hostAct_write ha] at h
  cases h
  split
  · cases a with
    | setKey k =>
      rw [State.hostWrite, State.setKey_frame]
      exact ⟨fun _ => ⟨k, rfl, rfl⟩, absurd rfl, absurd rfl, absurd rfl, absurd rfl⟩
    | _ => simp [State.hostWrite]
  · exact ⟨absurd rfl, absurd rfl, absurd rfl, absurd rfl, absurd rfl⟩

/-- What the host reads (R245): the pixel list entry by entry. -/
theorem hostView_pixels (s : State) :
    (hostView s).pixels.length = 2048 ∧ ∀ k, k < 2048 → (hostView s).pixels[k]? = some (s.pixel k) := by
  unfold hostView
  exact ⟨by rw [List.length_map, List.length_range], fun k hk => by
    rw [List.getElem?_map, List.getElem?_range hk, Option.map_some]⟩

/-- Settles O55: the frame of a host action, its wake and its writers; what the host reads are the fields themselves. -/
theorem hostActionsReachOnlyTheirFields : Obligations.HostActionsReachOnlyTheirFields := by
  unfold Obligations.HostActionsReachOnlyTheirFields
  refine ⟨fun a s ha => ?_, fun s => ?_⟩
  · have hact := hostAct_write ha s
    have hframe := hostAct_frame ha hact
    refine ⟨_, hact, fun _ => State.memRead_congr (by rw [hframe]) _, fun hs => ?_, hframe, fun hv => ?_, fun hr => ?_,
      hostAct_writers ha hact⟩
    · rw [if_pos hs]
      refine ⟨?_, ?_, ?_, ?_⟩
      · rintro k rfl
        exact ⟨by rw [State.hostWrite, State.setKey_frame], fun hwait => State.setKey_of_not_waiting hwait k⟩
      all_goals
        rintro rfl
        rfl
    · obtain ⟨hwait, -, h, c, rfl, hcode, hload⟩ | ⟨hkept, -⟩ := hostAct_wakes_or_keeps ha hact
      · refine ⟨hwait, fun r hr => ?_, h, c, rfl, hcode, ?_⟩
        · rw [State.getV_congr hload, (onlyRegs_setV s s.waitReg _).1 r hr]
        · rw [State.getV_congr hload, State.getV_setV_self, setWidth_code_toNat]
      · exact absurd hkept hv
    · obtain ⟨hwait, hrun, h, c, ha, hcode, -⟩ | ⟨-, hkept⟩ := hostAct_wakes_or_keeps ha hact
      · exact ⟨hwait, hrun, h, c, ha, hcode⟩
      · exact absurd hkept hr
  · obtain ⟨hlength, hpixel⟩ := hostView_pixels s
    exact ⟨hlength, hpixel, rfl, rfl, rfl, rfl, rfl, rfl, rfl, rfl⟩

/-! ### The rates -/

/-- From a legal rate the increase misses its full step only at the top (R240). -/
theorem clockUp_eq_ite {r : Nat} (h : clockLegal r) : clockUp r = if r = 1000 then 1000 else r + 100 := by
  simp only [clockLegal, clockUp, Config.clockRateStep, Config.clockRateMax] at *
  split <;> omega

/-- From a legal rate the decrease misses its full step only at the bottom (R240). -/
theorem clockDown_eq_ite {r : Nat} (h : clockLegal r) : clockDown r = if r = 200 then 200 else r - 100 := by
  simp only [clockLegal, clockDown, Config.clockRateStep, Config.clockRateMin] at *
  split <;> omega

/-- Settles O56: each of the four requests is one write of its rate. -/
theorem rateRequestsClamp : Obligations.RateRequestsClamp := by
  unfold Obligations.RateRequestsClamp
  intro s hs hclock
  exact ⟨⟨_, hostAct_of_active (by simp) hs, clockLegal_clockUp hclock, clockUp_eq_ite hclock, rfl⟩,
    ⟨_, hostAct_of_active (by simp) hs, clockLegal_clockDown hclock, clockDown_eq_ite hclock, rfl⟩,
    ⟨_, hostAct_of_active (by simp) hs, timerLegal_clampTimerRate _, rfl, rfl⟩,
    ⟨_, hostAct_of_active (by simp) hs, timerLegal_clampTimerRate _, rfl, rfl⟩⟩

/-! ### The list of a boundary -/

/-- No host action is refused: a reset whose image is rejected stops with a fault (R273). -/
theorem hostAct_ne_refused (a : HostAction) (s : State) (r : Refusal) : hostAct a s ≠ .refused r := by
  by_cases ha : ∀ image, a ≠ .reset image
  · rw [hostAct_write ha]
    simp
  · push Not at ha
    obtain ⟨image, rfl⟩ := ha
    unfold hostAct State.hostReset launch
    by_cases himage : imageWellFormed image = true <;> simp [himage]

/-- What arrives at a boundary is the first action's answer and then what arrives at it: no action reads the schedule, and none
starts a pulse. -/
theorem arrive_of_next {s t : State} {a : HostAction} {rest : List HostAction} (hin : s.inbox.headD [] = a :: rest)
    (hact : hostAct a { s with waitNotify := false } = .next t) :
    arrive s = arrive { t with inbox := rest :: s.inbox.tail } := by
  have hmoved : hostAct a { s with inbox := s.inbox.tail, waitNotify := false } = .next { t with inbox := s.inbox.tail } :=
    (hostAct_inbox a { s with waitNotify := false } _).trans (by rw [hact])
  have hpulse : t.waitNotify = false := hostAct_waitNotify rfl hact
  simp only [arrive, hin, hostActs, hmoved, List.headD_cons, List.tail_cons, hpulse]

theorem arrive_of_fault {s : State} {f : Fault} {a : HostAction} {rest : List HostAction}
    (hin : s.inbox.headD [] = a :: rest) (hact : hostAct a { s with waitNotify := false } = .fault f) :
    arrive s = .fault f := by
  have hmoved : hostAct a { s with inbox := s.inbox.tail, waitNotify := false } = .fault f :=
    (hostAct_inbox a { s with waitNotify := false } _).trans (by rw [hact])
  simp only [arrive, hin, hostActs, hmoved]

/-- The step after the first action of a boundary's list (R245). -/
theorem step_of_hostAct {s t : State} {a : HostAction} {rest : List HostAction} (hin : s.inbox.headD [] = a :: rest)
    (hact : hostAct a { s with waitNotify := false } = .next t) : step s = step { t with inbox := rest :: s.inbox.tail } := by
  unfold step cycle
  rw [arrive_of_next hin hact]

/-- Settles O60: the first action is peeled off what arrives at the boundary. -/
theorem hostActionsArriveInOrder : Obligations.HostActionsArriveInOrder := by
  unfold Obligations.HostActionsArriveInOrder
  intro s a rest later hin
  have hhead : s.inbox.headD [] = a :: rest := by rw [hin, List.headD_cons]
  refine ⟨fun t hact => ?_, fun f hact => ?_, hostAct_ne_refused a _⟩
  · rw [step_of_hostAct hhead hact, hin, List.tail_cons]
  · simp only [step, cycle, arrive_of_fault hhead hact]

/-- After the end of a run a list without a reset does nothing (R247). -/
theorem hostActs_of_ended {s : State} (hs : s.ended) {l : List HostAction} (hl : ∀ image, HostAction.reset image ∉ l) :
    hostActs l s = .next s := by
  induction l with
  | nil => rfl
  | cons a rest ih =>
    have ha : ∀ image, a ≠ .reset image := fun image e => hl image (e ▸ List.mem_cons_self)
    simp only [hostActs, hostAct_of_ended ha hs]
    exact ih fun image hmem => hl image (List.mem_cons_of_mem a hmem)

end Sys2Proof.Machine
end

section
/-!
Run control (spec/60_exceptions.md R224 to R247): the order of the checks at a boundary as one equation, from which a quiet
boundary, the host's requests and the end of a run are read off; then what one evaluation does to `RUNSTATE` and to the
notifications.
-/

namespace Sys2Proof.Machine

/-! ### The order of the checks -/

/-- Writing the run state a state has changes nothing. -/
theorem State.with_runState_eq_self {s : State} {r : RunState} (h : s.runState = r) : { s with runState := r } = s := by
  rw [← h]

/-- The CORE at a boundary, as one chain of checks (R230). -/
theorem evaluateBoundary_eq (s : State) :
    evaluateBoundary s =
      if s.ended then .next s
      else if s.cancel = true then .next (s.terminate .cancelled)
      else if s.runState = .waitingForKey then .next s
      else if s.pause = true then .next { s with runState := .paused }
      else runOrEnd { s with runState := .running } := by
  obtain ⟨r, hr⟩ : ∃ r, s.runState = r := ⟨_, rfl⟩
  cases r <;> simp [evaluateBoundary, hr, RunState.active, State.with_runState_eq_self hr]

/-- With the host quiet the CORE evaluates the boundary after its ticks. -/
theorem step_of_hostQuiet {s : State} (h : s.hostQuiet) : step s = evaluateBoundary s.atBoundary := by
  simp only [step, cycle, arrive_quiet h]

/-- Of what the checks read, the boundary changes nothing. -/
@[simp] theorem State.atBoundary_fields (s : State) :
    s.atBoundary.v = s.v ∧ s.atBoundary.pc = s.pc ∧ s.atBoundary.runState = s.runState ∧ s.atBoundary.progEnd = s.progEnd ∧
    s.atBoundary.faultCause = s.faultCause ∧ s.atBoundary.pause = s.pause ∧ s.atBoundary.cancel = s.cancel := by
  rw [State.atBoundary, State.timerAgent_frame]
  exact ⟨rfl, rfl, rfl, rfl, rfl, rfl, rfl⟩

/-- Settles O47: the chain of checks on the boundary's state, with the end of the program tested last. -/
theorem boundaryChecksInOrder : Obligations.BoundaryChecksInOrder := by
  unfold Obligations.BoundaryChecksInOrder
  intro s hquiet
  rw [step_of_hostQuiet hquiet, evaluateBoundary_eq]
  simp only [State.ended, State.atBoundary_fields, State.terminate, runOrEnd]

/-- Settles O6: the boundary leaves `PC` and memory, so the word at `PC` is what fails to decode. -/
theorem unrecognizedOpcodeTakesFault : Obligations.UnrecognizedOpcodeTakesFault := by
  unfold Obligations.UnrecognizedOpcodeTakesFault
  intro s g hruns hdecode
  have hb := State.atBoundary_of_active (s := s) (by rw [hruns.1]; rfl)
  have hfetch : s.atBoundary.fetch = s.fetch := by rw [hb]; rfl
  have hstep : step s = .next (s.atBoundary.advancePc.raise .unsupportedInstruction s.fetch) := by
    rw [step_of_runsNext hruns, instructionStep_eq, hfetch, show decode s.fetch = .error g from hdecode]
  exact ⟨_, hstep, by rw [hb]; rfl, readsFault_raise _ .unsupportedInstruction _⟩

/-! ### Cancel, pause and resume -/

/-- A single action on an active run lands before the ticks of the boundary. -/
theorem step_of_request {s : State} {a : HostAction} (ha : ∀ image, a ≠ .reset image) (hs : s.runState.active = true)
    (hin : s.inbox.headD [] = [a]) :
    step s = evaluateBoundary (State.hostWrite a { s with inbox := s.inbox.tail, waitNotify := false }).timerAgent := by
  have hact := hostAct_of_active (s := { s with inbox := s.inbox.tail, waitNotify := false }) ha hs
  simp only [step, cycle, arrive, hin, hostActs, hact]

section
variable {s : State} (hs : s.runState.active = true)
include hs

theorem step_of_cancel_request (hin : s.inbox.headD [] = [.cancel]) :
    step s = evaluateBoundary { s.atBoundary with cancel := true } := by
  rw [step_of_request (by simp) hs hin, State.timerAgent_of_active, State.atBoundary_of_active hs]
  · rfl
  · exact hs

theorem step_of_pause_request (hin : s.inbox.headD [] = [.pause]) :
    step s = evaluateBoundary { s.atBoundary with pause := true } := by
  rw [step_of_request (by simp) hs hin, State.timerAgent_of_active, State.atBoundary_of_active hs]
  · rfl
  · exact hs

theorem step_of_resume_request (hin : s.inbox.headD [] = [.resume]) :
    step s = evaluateBoundary { s.atBoundary with pause := false } := by
  rw [step_of_request (by simp) hs hin, State.timerAgent_of_active, State.atBoundary_of_active hs]
  · rfl
  · exact hs

end

/-- Settles O48: the request lands before the checks, and it is the first of them that applies to an active state. -/
theorem cancelEndsRunWithinOneStep : Obligations.CancelEndsRunWithinOneStep := by
  unfold Obligations.CancelEndsRunWithinOneStep
  intro s hs hin
  refine ⟨?_, by simp⟩
  rw [step_of_cancel_request hs hin, evaluateBoundary_eq, if_neg (by simp [hs]), if_pos rfl]
  rfl

/-- With no request pending, a paused CORE and a running one at the same boundary evaluate it alike (R230 (4)). -/
theorem evaluateBoundary_of_paused_or_running {s : State} (hr : s.runState = .paused ∨ s.runState = .running)
    (hcancel : s.cancel = false) (hpause : s.pause = false) :
    evaluateBoundary s = runOrEnd { s with runState := .running } := by
  rw [evaluateBoundary_eq]
  obtain hr | hr := hr <;> simp [State.ended, RunState.active, hr, hcancel, hpause]

/-- Settles O49: each request lands before the checks; with the pause withdrawn, a paused CORE evaluates the boundary as a
running one does. -/
theorem pauseStopsAndResumeContinues : Obligations.PauseStopsAndResumeContinues := by
  unfold Obligations.PauseStopsAndResumeContinues
  refine fun s hcancel => ⟨fun hr hin => ?_, fun hr hin => ?_, fun hr hin => ?_⟩
  all_goals have hs : s.runState.active = true := by rw [hr]; rfl
  · rw [step_of_pause_request hs hin, evaluateBoundary_eq]
    simp [State.ended, RunState.active, hr, hcancel]
  · rw [step_of_resume_request hs hin, step_of_hostQuiet rfl,
      evaluateBoundary_of_paused_or_running (.inl (by simp [hr])) (by simp [hcancel]) rfl,
      evaluateBoundary_of_paused_or_running (.inr (by simp)) (by simp [hcancel]) (by simp),
      State.atBoundary_of_active hs, State.atBoundary_of_active rfl]
    rfl
  · rw [step_of_pause_request hs hin, evaluateBoundary_eq]
    simp [State.ended, RunState.active, hr, hcancel]

/-! ### After the end -/

/-- Settles O50: the host's actions and the CORE do nothing, and no tick falls. -/
theorem endedRunDoesNotChange : Obligations.EndedRunDoesNotChange := by
  unfold Obligations.EndedRunDoesNotChange
  intro s hs hreset
  have hacts := hostActs_of_ended (s := { s with inbox := s.inbox.tail, waitNotify := false }) hs hreset
  have harrive : arrive s = .next { s with waitNotify := false, inbox := s.inbox.tail, boundary := s.boundary + 1 } := by
    simp only [arrive, hacts, State.timerAgent_of_ended (s := { s with inbox := s.inbox.tail, waitNotify := false }) hs]
  simp only [step, cycle, harrive]
  rw [evaluateBoundary_eq, if_pos hs]

/-! ### `RUNSTATE` -/

/-- What an instruction step does to the control part of the state: nothing, the wait of `LD Vx, K`, or fault entry. -/
theorem instructionStep_control_cases {s t : State} (h : instructionStep s = .next t) :
    t.control = s.control ∨ (∃ x, decode s.fetch = .ok (.ldVxK x) ∧ t = s.advancePc.waitForKey x) ∨
    ∃ cause opcode, t = s.advancePc.raise cause opcode := by
  rw [instructionStep_eq] at h
  split at h
  next i hdecode =>
    obtain hkept | ⟨x, rfl, -, rfl⟩ | ⟨-, -, rfl⟩ | ⟨a, -, -, rfl⟩ := exec_control_cases h
    · exact .inl hkept
    · exact .inr (.inl ⟨x, hdecode, rfl⟩)
    · exact .inr (.inr ⟨_, _, rfl⟩)
    · exact .inr (.inr ⟨_, _, rfl⟩)
  next =>
    cases h
    exact .inr (.inr ⟨_, _, rfl⟩)

/-- Where a running CORE with no request pending can go (R231). -/
theorem runOrEnd_runState {s t : State} (hr : s.runState = .running) (h : runOrEnd s = .next t) :
    t.runState = .running ∨ t.runState = .waitingForKey ∨ t.runState = .terminatedError ∨
      (s.progEnd.toNat ≤ s.pc.toNat ∧ t.runState = .terminatedNormal) := by
  obtain ⟨hend, rfl⟩ | ⟨-, hstep⟩ := runOrEnd_cases h
  · exact .inr (.inr (.inr ⟨hend, rfl⟩))
  · obtain hkept | ⟨x, -, rfl⟩ | ⟨cause, opcode, rfl⟩ := instructionStep_control_cases hstep
    · exact .inl ((congrArg Control.runState hkept).trans hr)
    · exact .inr (.inl rfl)
    · exact .inr (.inr (.inl rfl))

/-- Settles O51: the cases of the CORE's evaluation, and the wake as the one transition of the host. -/
theorem runStateTransitionsAreTheListed : Obligations.RunStateTransitionsAreTheListed := by
  unfold Obligations.RunStateTransitionsAreTheListed
  refine ⟨fun s t h => ?_, fun a s t ha h hne => ?_⟩
  · obtain ⟨hs, rfl⟩ | ⟨hs, hc, rfl⟩ | ⟨hr, -, hp, rfl⟩ | ⟨hr, -, hp, rfl⟩ | ⟨hr, -, rfl⟩ | ⟨hr, hc, hp, hrun⟩ :=
      evaluateBoundary_cases h
    · exact ⟨fun _ => rfl, fun hr => .inl hr, fun hr => .inl hr, fun hr => by simp [State.ended, hr, RunState.active] at hs⟩
    · simp [State.ended, hs, hc]
    · simp [State.ended, RunState.active, hr, hp]
    · simp [State.ended, RunState.active, hr, hp]
    · simp [State.ended, RunState.active, hr]
    · have hlisted := runOrEnd_runState rfl hrun
      obtain hr | hr := hr
      · simpa [State.ended, RunState.active, hr, hc, hp] using hlisted
      · simpa [State.ended, RunState.active, hr, hc, hp] using hlisted
  · obtain ⟨hwait, hrun, h, c, ha, hcode, -⟩ | ⟨-, hkept⟩ := hostAct_wakes_or_keeps ha h
    · exact ⟨hwait, hrun, h, c, ha, hcode⟩
    · exact absurd hkept hne

/-! ### The notifications -/

/-- The fetch reads `PC` and memory, nothing else. -/
theorem State.fetch_congr {s t : State} (hpc : t.pc = s.pc) (hmem : t.mem = s.mem) : t.fetch = s.fetch := by
  simp only [State.fetch, State.memRead, hpc, hmem]

/-- Without a reset, what arrives at a boundary leaves the word that is fetched next. -/
theorem arrive_fetch {s t : State} (hreset : s.noReset) (h : arrive s = .next t) : t.fetch = s.fetch := by
  obtain ⟨m, hacts, rfl⟩ := arrive_next h
  have hkeeps : m.pc = s.pc ∧ m.mem = s.mem := by
    refine hostActs_keeps (P := fun u => u.pc = s.pc ∧ u.mem = s.mem) (fun a ha u w hu hact => ?_) ?_ hacts
    · rw [hostAct_frame (fun image e => hreset image (e ▸ ha)) hact]
      exact hu
    · exact ⟨rfl, rfl⟩
  rw [State.timerAgent_frame]
  exact State.fetch_congr hkeeps.1 hkeeps.2

/-- `WAIT_NOTIFY` is emitted by a waiting `LD Vx, K` and by nothing else the CORE does at a boundary (R183, R236). -/
theorem evaluateBoundary_waitNotify {s t : State} (hw : s.waitNotify = false) (h : evaluateBoundary s = .next t)
    (ht : t.waitNotify = true) :
    t.runState = .waitingForKey ∧ ∃ x, decode s.fetch = .ok (.ldVxK x) ∧ t.waitReg = x := by
  have hno : ∀ u : State, u.waitNotify = s.waitNotify → u ≠ t := by
    rintro u hu rfl
    rw [hu, hw] at ht
    cases ht
  obtain ⟨-, rfl⟩ | ⟨-, -, rfl⟩ | ⟨-, -, -, rfl⟩ | ⟨-, -, -, rfl⟩ | ⟨-, -, rfl⟩ | ⟨-, -, -, hrun⟩ :=
    evaluateBoundary_cases h
  case inr.inr.inr.inr.inr =>
    obtain ⟨-, rfl⟩ | ⟨-, hstep⟩ := runOrEnd_cases hrun
    · exact absurd rfl (hno _ rfl)
    · obtain hkept | ⟨x, hdecode, rfl⟩ | ⟨cause, opcode, rfl⟩ := instructionStep_control_cases hstep
      · exact absurd rfl (hno _ (congrArg Control.waitNotify hkept))
      · exact ⟨rfl, x, hdecode, rfl⟩
      · exact absurd rfl (hno _ rfl)
  all_goals exact absurd rfl (hno _ rfl)

/-- Settles O52: an ended run does not change, the invariant ties the notification to the terminal states, and the pulse is the
wait of the word fetched at the boundary. -/
theorem notificationsAreEmittedOnce : Obligations.NotificationsAreEmittedOnce := by
  unfold Obligations.NotificationsAreEmittedOnce
  intro s u hinv hreset hstep
  refine ⟨fun hnotified => ?_, fun _ => ?_, fun hpulse => ?_⟩
  · obtain ⟨-, -, hended, -⟩ := hinv
    cases hstep.symm.trans (endedRunDoesNotChange s (hended.1 hnotified) hreset)
    exact ⟨hnotified, rfl⟩
  · obtain ⟨-, -, hended, -⟩ := stepKeepsInvariant s u hinv hstep
    exact hended
  · obtain ⟨t, harrive, heval⟩ := step_next hstep
    rw [← arrive_fetch hreset harrive]
    exact evaluateBoundary_waitNotify (arrive_invNoPulse hinv harrive).2 heval hpulse

end Sys2Proof.Machine
end

section
/-!
Reset and load (spec/70_reset_and_hazards.md): what memory holds after a block of bytes is written, and from it the memory of a
fresh instance, region by region; the registers are those of the reset state.
-/

namespace Sys2Proof.Machine

/-! ### A block of bytes written to memory -/

/-- The first byte of a block that fits the address space is written at the block's own address, without wrapping. -/
theorem Memory.writeAll_cons {a : Nat} {b : Byte} {rest : List Byte} (hfit : a + (b :: rest).length ≤ Config.memBytes)
    (m : List Host.Cell) :
    Memory.writeAll a (b :: rest) m = Memory.writeAll (a + 1) rest (Memory.write a b m) := by
  have ha : a < Config.memBytes := (Nat.lt_add_of_pos_right (Nat.succ_pos rest.length)).trans_le hfit
  rw [Memory.writeAll, Nat.mod_eq_of_lt ha]

/-- A block of bytes leaves every address outside it. -/
theorem Memory.read_writeAll_outside {a n : Nat} {bytes : List Byte} (hfit : a + bytes.length ≤ Config.memBytes)
    (hn : n < a ∨ a + bytes.length ≤ n) (m : List Host.Cell) :
    Memory.read n (Memory.writeAll a bytes m) = Memory.read n m := by
  induction bytes generalizing a m with
  | nil => rfl
  | cons b rest ih =>
    rw [Memory.writeAll_cons hfit]
    simp only [List.length_cons] at hfit hn
    have hne : n ≠ a := by omega
    rw [ih (by omega) (by omega), Memory.read_write, if_neg hne]

/-- A block of bytes is read back byte for byte. -/
theorem Memory.read_writeAll_getElem {a j : Nat} {bytes : List Byte} (hfit : a + bytes.length ≤ Config.memBytes)
    (hj : j < bytes.length) (m : List Host.Cell) :
    Memory.read (a + j) (Memory.writeAll a bytes m) = bytes[j] := by
  induction bytes generalizing a j m with
  | nil => exact absurd hj (Nat.not_lt_zero j)
  | cons b rest ih =>
    rw [Memory.writeAll_cons hfit]
    simp only [List.length_cons] at hfit hj
    cases j with
    | zero =>
      rw [Memory.read_writeAll_outside (by omega) (by omega), Memory.read_write]
      exact if_pos rfl
    | succ j =>
      rw [← Nat.add_assoc, Nat.add_right_comm, ih (by omega) (by omega), List.getElem_cons_succ]

/-! ### The memory of a fresh instance -/

/-- From 0x200 on there is room for an image of a legal size: the largest ends with the address space (R4, R273). -/
theorem image_fits {image : List Byte} (hmax : image.length ≤ Config.progMaxBytes) :
    Config.progBase + image.length ≤ Config.memBytes :=
  Nat.add_le_add_left hmax Config.progBase

/-- The font ends inside the address space (R274). -/
theorem font_fits (p : Params) : 0 + p.font.toList.length ≤ Config.memBytes := by
  simp [Config.memBytes]

/-- The image is read from 0x200 on (R272). -/
theorem read_launchMem_image (p : Params) {image : List Byte} (hmax : image.length ≤ Config.progMaxBytes) {j : Nat}
    (hj : j < image.length) : Memory.read (Config.progBase + j) (launchMem p image) = image[j] :=
  Memory.read_writeAll_getElem (image_fits hmax) hj _

/-- The image leaves what lies below it and past it: the font area is as the font load left it. -/
theorem read_launchMem_outside (p : Params) {image : List Byte} (hmax : image.length ≤ Config.progMaxBytes) {n : Nat}
    (hn : n < Config.progBase ∨ Config.progBase + image.length ≤ n) :
    Memory.read n (launchMem p image) = Memory.read n (Memory.writeAll 0 p.font.toList []) :=
  Memory.read_writeAll_outside (image_fits hmax) hn _

/-- The font of the configuration is read from 0x000 on (R274). -/
theorem read_launchMem_font (p : Params) {image : List Byte} (hmax : image.length ≤ Config.progMaxBytes) {j : Nat}
    (hj : j < 80) : Memory.read j (launchMem p image) = p.font[j] := by
  have hread := Memory.read_writeAll_getElem (font_fits p) (by simpa using hj) []
  rw [read_launchMem_outside p hmax (.inl (hj.trans (by decide)))]
  simpa using hread

/-- Between the font and the image, and past the image, memory reads 0 (D24). -/
theorem read_launchMem_rest (p : Params) {image : List Byte} (hmax : image.length ≤ Config.progMaxBytes) {n : Nat}
    (hfont : 80 ≤ n) (hn : n < Config.progBase ∨ Config.progBase + image.length ≤ n) :
    Memory.read n (launchMem p image) = 0#8 := by
  rw [read_launchMem_outside p hmax hn, Memory.read_writeAll_outside (font_fits p) (.inr (by simpa using hfont))]
  exact List.getD_eq_default fontTable 0 hfont

/-! ### Launch -/

/-- The size check, as the two bounds of R273. -/
theorem imageWellFormed_iff (image : List Byte) :
    imageWellFormed image = true ↔ 1 ≤ image.length ∧ image.length ≤ Config.progMaxBytes := by
  simp [imageWellFormed]

/-- An image of a legal size starts the fresh instance (R270, R273). -/
theorem launch_of_legal {image : List Byte} (hmin : 1 ≤ image.length) (hmax : image.length ≤ Config.progMaxBytes)
    (p : Params) : launch p image = .next (freshInstance p image) :=
  if_pos ((imageWellFormed_iff image).2 ⟨hmin, hmax⟩)

/-- An image of any other size starts no instance (R273). -/
theorem launch_of_illegal {image : List Byte} (hsize : image.length = 0 ∨ Config.progMaxBytes < image.length) (p : Params) :
    launch p image = .fault (.startupError image.length) := by
  refine if_neg fun h => ?_
  obtain ⟨hmin, hmax⟩ := (imageWellFormed_iff image).1 h
  omega

/-- `PROG_END` of a fresh instance is the first address past the program, which fits its 13 bits (R34, R272). -/
theorem progEnd_freshInstance (p : Params) {image : List Byte} (hmax : image.length ≤ Config.progMaxBytes) :
    (freshInstance p image).progEnd.toNat = Config.progBase + image.length := by
  rw [freshInstance, BitVec.toNat_ofNat]
  exact Nat.mod_eq_of_lt ((image_fits hmax).trans_lt (by decide))

/-- What a fresh instance reads at a number below 4096 as an address. -/
theorem memRead_freshInstance_ofNat (p : Params) (image : List Byte) {n : Nat} (hn : n < Config.memBytes) :
    (freshInstance p image).memRead (BitVec.ofNat 12 n) = Memory.read n (launchMem p image) := by
  rw [State.memRead, BitVec.toNat_ofNat, Nat.mod_eq_of_lt hn, freshInstance]

/-- Settles O57: the registers are those of the reset state, and memory is read region by region. -/
theorem launchLoadsProgramAndFont : Obligations.LaunchLoadsProgramAndFont := by
  unfold Obligations.LaunchLoadsProgramAndFont
  refine fun p image => ⟨fun hmin hmax => ?_, fun hsize => launch_of_illegal hsize p⟩
  obtain ⟨hv, hi, hpc, hsp, hdt, hst, hpixel, hkey, hrun, hfault, hpause, hcancel, hend, hclock, htimer, -, -⟩ := resetValues
  refine ⟨freshInstance p image, launch_of_legal hmin hmax p, hpc, progEnd_freshInstance p hmax, hrun, rfl, launchMem_wf p image,
    ⟨hv, hi, hsp, hdt, hst, hpixel, hkey, hpause, hcancel, hfault, hend, rfl, hclock, htimer⟩, rfl, fun j hj => ?_,
    fun j hj => ?_, fun a hfont ha => read_launchMem_rest p hmax hfont ha⟩
  · rw [memRead_freshInstance_ofNat p image ((Nat.add_lt_add_left hj _).trans_le (image_fits hmax))]
    exact read_launchMem_image p hmax hj
  · rw [memRead_freshInstance_ofNat p image (hj.trans (by decide))]
    exact read_launchMem_font p hmax hj

/-! ### The host's reset -/

/-- A reset with an image that launches: the launched instance, with the rates drawn anew and the model's own fields kept. -/
theorem hostAct_reset_of_launch {s u : State} {image : List Byte} (h : launch s.params image = .next u) :
    hostAct (.reset image) s = .next { u with
      clockRate := Config.clockRateMin + Config.clockRateStep * (Config.clockAfterReset s.boundary).val
      timerRate := clampTimerRate (Config.timerAfterReset s.boundary)
      inbox := s.inbox
      boundary := s.boundary
      draws := s.draws } := by
  simp only [hostAct, State.hostReset, h]

/-- A reset with an image that does not launch stops as the launch does. -/
theorem hostAct_reset_of_fault {s : State} {image : List Byte} {f : Fault} (h : launch s.params image = .fault f) :
    hostAct (.reset image) s = .fault f := by
  simp only [hostAct, State.hostReset, h]

/-- Settles O58: the reset is a launch of the same configuration with both rates inside their ranges. -/
theorem hostResetDiscardsInstance : Obligations.HostResetDiscardsInstance := by
  unfold Obligations.HostResetDiscardsInstance
  refine fun s image => ⟨fun hmin hmax => ?_, fun hsize => hostAct_reset_of_fault (launch_of_illegal hsize s.params)⟩
  have hlaunch := launch_of_legal hmin hmax s.params
  exact ⟨_, _, hostAct_reset_of_launch hlaunch, hlaunch, clockLegal_ofIndex _, timerLegal_clampTimerRate _, rfl⟩

end Sys2Proof.Machine
end
